-- ==== Sys2Proof/Word.lean ====
section
/-! DEFINITION. The word types of the block (spec/00_scope.md R8, R10): every value of this instruction set is an
unsigned bit vector of a fixed width, and nothing is ever sign-extended. -/

namespace Sys2Proof

/-- An 8-bit value: a general register, a timer, a memory byte, the immediate NN. -/
abbrev Byte := BitVec 8

/-- A 16-bit value: the index register, the program counter, a stack entry, an opcode word. -/
abbrev Word := BitVec 16

/-- The 4-bit register number of the X and Y fields (R10, R66). Every value names one of V0..VF (R21). -/
abbrev Reg := BitVec 4

/-- The 4-bit count N of DXYN (R10, R66). -/
abbrev Nibble := BitVec 4

/-- The 12-bit address NNN (R10, R66). -/
abbrev Addr := BitVec 12

/-- The 16 key flags of a tick: bit k is `Key(k)` (R9, R34). -/
abbrev Keys := BitVec 16

/-- VF, general register 15, which is also the flag register (R23). -/
abbrev vf : Reg := 15#4

end Sys2Proof
end

