-- ==== Sys2Proof/Config.lean ====
section
/-! DEFINITION. What the spec leaves to the implementation and the free values: the three quirk switches that
spec/00_scope.md R6 and R7 keep OPEN, the random byte of CXNN (spec/49_random_bcd.md R132) and the version tag of a
state image (spec/70_reset_and_hazards.md R160), the flags of a tick the model starts itself and the info of an unfaulted
machine. None has a body, so no proof can see its value, and a theorem
about the model holds for every value of each. The parameters the spec does fix are in Machine/Params.lean. -/

namespace Sys2Proof

/-- The two settings of the shift switch (R6, R7, decision D8): `vy` shifts V[Y] into V[X], `vx` shifts V[X] in
place. -/
inductive ShiftSource where
  | vy
  | vx
deriving DecidableEq, Repr, Inhabited

/-- `SHIFT_SOURCE`, OPEN in the spec (R6, D8, U1). DESIGN CHOICE, safe: a constant without a body, assumption 1. -/
opaque Config.shiftSource : ShiftSource

/-- `MEM_I_INCREMENT`, OPEN in the spec (R6, D9, U2). DESIGN CHOICE, safe: a constant without a body, assumption 2. -/
opaque Config.memIIncrement : Bool

/-- `LOGIC_VF_RESET`, OPEN in the spec (R6, D10, U3). DESIGN CHOICE, safe: a constant without a body, assumption 3. -/
opaque Config.logicVfReset : Bool

/-- `Rand8()`: the byte of the n-th draw (R131, R132, D23, U4): every value is admitted for every draw and no relation
between draws is known. The counter of draws made is the field `draws` of State. DESIGN CHOICE, safe, assumption 4. -/
opaque Config.randByte : Nat → Byte

/-- The version tag of this block's state images (R160). The spec leaves its value to the Snapshot Codec, which is out
of scope (R5, U21). DESIGN CHOICE, safe: a constant without a body, assumption 11. -/
opaque Config.versionTag : Nat

/-- The key flags of the n-th transaction when it is a tick that no call of the host asks for: the spec leaves the flags of
every tick to the host (R34, R79). The counter of transactions is the field `turns` of State. DESIGN CHOICE, safe,
assumption 5. -/
opaque Config.hostKeys : Nat → Keys

/-- The 16-bit `info` the output `fault_status` gives in a state with no fault latched. The spec gives code 0 for it and
no info (R134, R155, D16), and only says that an output is a function of the current state (R157). DESIGN CHOICE, safe: a
free value, which Machine/HostPort.lean applies to the machine's part of the state, assumption 19. -/
opaque Config.noFaultInfo (σ : Type) (state : σ) : Word

end Sys2Proof
end

