-- ==== Sys2Proof/Machine/Params.lean ====
section
/-! DEFINITION. The implementation parameters that spec/00_scope.md R6 fixes. UNVERIFIED, unsafe: the spec takes most of
these values from general knowledge (decisions D2 to D5 and D13), assumption 14. -/

namespace Sys2Proof.Machine

/-- `MEM_SIZE`: 4096 bytes, addresses 0x000..0xFFF (R6, R48). -/
def memSize : Nat := 4096

/-- `ENTRY`: where a program image is placed and execution starts (R6, R49). -/
def entry : Nat := 0x200

/-- `MAX_ROM` = `MEM_SIZE - ENTRY` = 3584 (R6). -/
def maxRom : Nat := memSize - entry

/-- `STACK_DEPTH`: 16 return addresses (R6, R27). -/
def stackDepth : Nat := 16

/-- `FONT_BASE` (R6, R110). -/
def fontBase : Nat := 0x000

/-- The bytes of one glyph (R110). -/
def glyphSize : Nat := 5

end Sys2Proof.Machine
end

