-- ==== Sys2Proof/Machine/Memory.lean ====
section
/-! DEFINITION. The 4096-byte memory (spec/20_memory.md): one list of (address, byte) pairs in one canonical form, the
reset contents being what an unlisted address reads as (spec/10_state.md R39, spec/45_memory_index.md R110). -/

namespace Sys2Proof.Machine

/-- The bytes that differ from the reset contents, lowest address first (R48). -/
abbrev Memory := List Host.Cell

/-- Glyphs 0 to 7 of the hex font (R110). -/
def fontLow : List Byte :=
  [0xF0, 0x90, 0x90, 0x90, 0xF0] ++ [0x20, 0x60, 0x20, 0x20, 0x70] ++
  [0xF0, 0x10, 0xF0, 0x80, 0xF0] ++ [0xF0, 0x10, 0xF0, 0x10, 0xF0] ++
  [0x90, 0x90, 0xF0, 0x10, 0x10] ++ [0xF0, 0x80, 0xF0, 0x10, 0xF0] ++
  [0xF0, 0x80, 0xF0, 0x90, 0xF0] ++ [0xF0, 0x10, 0x20, 0x40, 0x40]

/-- Glyphs 8 to F of the hex font (R110). -/
def fontHigh : List Byte :=
  [0xF0, 0x90, 0xF0, 0x90, 0xF0] ++ [0xF0, 0x90, 0xF0, 0x10, 0xF0] ++
  [0xF0, 0x90, 0xF0, 0x90, 0x90] ++ [0xE0, 0x90, 0xE0, 0x90, 0xE0] ++
  [0xF0, 0x80, 0x80, 0x80, 0xF0] ++ [0xE0, 0x90, 0x90, 0x90, 0xE0] ++
  [0xF0, 0x80, 0xF0, 0x80, 0xF0] ++ [0xF0, 0x80, 0xF0, 0x80, 0x80]

/-- The 80 bytes of the font, glyph 0 first (R110). -/
def fontBytes : List Byte := fontLow ++ fontHigh

/-- What an unlisted address reads as: the reset contents, the font at `FONT_BASE` and 0 everywhere else (R39, R49). -/
def Memory.unlisted (a : Nat) : Byte := if fontBase ≤ a then fontBytes.getD (a - fontBase) 0 else 0

/-- `MemRead(addr, 1)` (R9, R52). It is total. Every use of it stands under a range check (R56), so the value it gives at
or above `MEM_SIZE` is never used (assumption 9). -/
def Memory.read : Memory → Nat → Byte
  | [], a => Memory.unlisted a
  | c :: rest, a => if c.1 = a then c.2 else Memory.read rest a

/-- The list without an entry for `a`. -/
def Memory.erase (m : Memory) (a : Nat) : Memory := m.filter (fun c => c.1 != a)

/-- The list with the entry `(a, b)` in its place, any older entry for `a` replaced. -/
def Memory.insert : Memory → Nat → Byte → Memory
  | [], a, b => [(a, b)]
  | c :: rest, a, b =>
    if a < c.1 then (a, b) :: c :: rest
    else if a = c.1 then (a, b) :: rest
    else c :: Memory.insert rest a b

/-- `MemWrite(addr, 1, v)` (R9, R52), keeping the canonical form. Every use of it stands under a range check (R56). At or
above `MEM_SIZE` there is no byte to write, and it writes nothing (assumption 9). -/
def Memory.write (m : Memory) (a : Nat) (b : Byte) : Memory :=
  if a < memSize then
    if b = Memory.unlisted a then Memory.erase m a else Memory.insert m a b
  else m

/-- `MemWrite` of a list of bytes at consecutive ascending addresses (R52). -/
def Memory.writeBytes : Memory → Nat → List Byte → Memory
  | m, _, [] => m
  | m, a, b :: rest => Memory.writeBytes (Memory.write m a b) (a + 1) rest

/-- `MemRead` of `n` bytes at consecutive ascending addresses (R52). -/
def Memory.readBytes (m : Memory) (a n : Nat) : List Byte := (List.range n).map (fun k => Memory.read m (a + k))

/-- The canonical form: addresses strictly rising, each inside the memory, no entry equal to what its address reads as
when unlisted. -/
abbrev Memory.wf (m : Memory) : Prop :=
  m.Pairwise (fun c d => c.1 < d.1) ∧ ∀ c ∈ m, c.1 < memSize ∧ c.2 ≠ Memory.unlisted c.1

end Sys2Proof.Machine
end

