-- ==== Sys2Proof/Machine/State.lean ====
section
/-! DEFINITION. The machine state (spec/10_state.md R21 to R39), the host's transactions (spec/70_reset_and_hazards.md
R155), the fault causes (spec/60_exceptions.md R134) and the state after reset. Plain data only. -/

namespace Sys2Proof.Machine

/-- An ExecutionFault with its 16-bit `info` (R134). It is what the fault latch holds and what a tick returns. RAISED BY
`raise` (Machine/Ops.lean), which gives a NEXT state with the latch set, as R79 says. The outcome `fault` of a step is
never answered: the spec gives every fault its effect (DEDUCED, safe, assumption 8). -/
inductive Fault where
  /-- Code 1, raised by the decode of an illegal word. `info` is the word. Safe: R78 gives the effect. -/
  | unknownOpcode (info : Word)
  /-- Code 2, raised by CALL on a full stack. `info` is the pc of the CALL. Safe: R104 gives the effect. -/
  | stackOverflow (info : Word)
  /-- Code 3, raised by RET on an empty stack. `info` is the pc of the RET. Safe: R105 gives the effect. -/
  | stackUnderflow (info : Word)
  /-- Code 4, raised by fetch, DRW, LD B, LD [I] and LD Vx, [I] whose range reaches `MEM_SIZE`. `info` is the lowest
  out-of-range address (R55). Safe: R56 gives the effect. -/
  | outOfBoundsMemory (info : Word)
deriving DecidableEq, Repr

/-- Why a step answers with no meaning. -/
inductive Refusal where
  /-- Raised only by an arm of `exec` whose instruction has no meaning yet. No arm is in that case. Safe: it stops. -/
  | notModelled (mnemonic : String)
deriving DecidableEq, Repr

/-- The refusal of a host transaction, which leaves the machine unchanged (R140, R152, R161). -/
inductive DecodeError where
  /-- `load_rom` of more than `MAX_ROM` bytes (R152). -/
  | romTooLarge
  /-- `state_write` of an invalid image (R161). -/
  | badImage
deriving DecidableEq, Repr

/-- A state image as a record, never as bytes (U21): the elements of R38 and the version tag. The values are plain
numbers, so that an image with an out-of-range value (R161) can be written down. Assumption 11. -/
structure Image where
  tag : Nat
  mem : List Nat
  v : List Nat
  i : Nat
  pc : Nat
  depth : Nat
  stack : List Nat
  dt : Nat
  st : Nat
  disp : List Bool
deriving DecidableEq, Repr

/-- The transactions of R155 that the host starts. The outputs of R155 (`sound_active`, `display_buffer`,
`fault_status`) are functions of the state, in Machine/HostPort.lean (R157). -/
inductive HostCall where
  /-- `tick` with the 16 key flags (R79). -/
  | tick (keys : Keys)
  /-- `update_timers` (R123). -/
  | updateTimers
  /-- `load_rom` (R151, R152). -/
  | loadRom (bytes : List Byte)
  /-- `state_read` (R158, R159). -/
  | stateRead
  /-- `state_write` (R160, R161). -/
  | stateWrite (image : Image)
deriving DecidableEq, Repr

/-- What a transaction returns to the host (the column `result` of R155). -/
inductive Reply where
  /-- `Ok` of a tick, of `load_rom` and of `state_write`. -/
  | ok
  /-- `Fault(cause, info)` of a tick (R84). -/
  | fault (f : Fault)
  /-- `DecodeError` of `load_rom` or `state_write`. -/
  | decodeError (e : DecodeError)
  /-- The image `state_read` returns (R158). -/
  | image (img : Image)
  /-- `state_read` of a faulted machine (R159). -/
  | readRefused
  /-- `update_timers` has completed. It returns nothing (R155). -/
  | done
deriving DecidableEq, Repr

/-- The display: row y is element y, and `Pixel(x, y)` is bit x of it (R33). -/
abbrev Display := Vector (BitVec 64) 32

/-- The whole state. The first nine fields are the spec's tuple `(mem, V, I, pc, stack, DT, ST, disp, fault)`. The last
five are the model's own: two free-value counters and the two sides of the host interface. -/
structure State where
  /-- Memory (R48). -/
  mem : Memory
  /-- V0..VF (R21). -/
  v : Vector Byte 16
  /-- The index register I (R24). -/
  i : Word
  /-- The program counter (R25). -/
  pc : Word
  /-- The call stack: `stack[k]` is entry k, the newest last, and its length is `depth` (R27, R28). -/
  stack : List Word
  /-- The delay timer DT (R31). -/
  dt : Byte
  /-- The sound timer ST (R32). -/
  st : Byte
  /-- The display buffer (R33). -/
  disp : Display
  /-- The fault latch (R35). -/
  fault : Option Fault
  /-- The model's own: the number of CXNN draws made (R132), assumption 4. -/
  draws : Nat
  /-- The model's own: the key flags at the input port, which are the argument of the current tick (R34). A tick puts its
  flags there and the end of the tick takes them away: between two steps the port is 0. Assumption 5. -/
  keys : Keys
  /-- The model's own: the number of transactions the host has made, the index of the free key flags, assumption 5. -/
  turns : Nat
  /-- The model's own: the transactions the host makes next, first one first (R155), assumption 6. -/
  inbox : List HostCall
  /-- The model's own: what the last transaction returned to the host (R155), assumption 7. -/
  reply : Option Reply
deriving DecidableEq, Repr

/-- What `exec`, `step` and every meaning answer. -/
abbrev Result := Host.Outcome State Fault Refusal

/-- The machine right after reset, with no program loaded: power-on of R153, the values of R39. The five fields of
the model's own hold DESIGN CHOICE values (assumptions 4 to 7): no draw and no transaction made, nothing on the key
port, no call pending, no reply. -/
def State.reset : State where
  mem := []
  v := Vector.replicate 16 0
  i := 0
  pc := BitVec.ofNat 16 entry
  stack := []
  dt := 0
  st := 0
  disp := Vector.replicate 32 0
  fault := none
  draws := 0
  keys := 0
  turns := 0
  inbox := []
  reply := none

end Sys2Proof.Machine
end

