-- ==== Sys2Proof/Machine/Ops.lean ====
section
/-! DEFINITION. The named operations over the state: register and field access, the program counter's advance
(spec/40_cycle.md R80 to R82), raising an ExecutionFault as one shared operation (R79, spec/60_exceptions.md R135), the range
check (spec/20_memory.md R56) and the call stack (spec/10_state.md R29, R30). There is no return from a fault inside the
machine (R139): only the host's `load_rom` and `state_write` clear the latch, in Machine/HostPort.lean. -/

namespace Sys2Proof.Machine

/-- Read general register x (R9, R21). -/
def State.reg (s : State) (x : Reg) : Byte := s.v[x.toNat]'x.isLt

/-- Write general register x (R9, R21, R22). No register is hardwired. -/
def State.setReg (s : State) (x : Reg) (b : Byte) : State := { s with v := s.v.set x.toNat b x.isLt }

/-- Replace the whole register file. -/
def State.setRegs (s : State) (v : Vector Byte 16) : State := { s with v := v }

/-- Write the memory. -/
def State.setMem (s : State) (m : Memory) : State := { s with mem := m }

/-- Write the index register (R24). -/
def State.setI (s : State) (w : Word) : State := { s with i := w }

/-- Write the program counter (R25). -/
def State.setPc (s : State) (w : Word) : State := { s with pc := w }

/-- Write the call stack (R27). -/
def State.setStack (s : State) (l : List Word) : State := { s with stack := l }

/-- Write the delay timer (R31). -/
def State.setDt (s : State) (b : Byte) : State := { s with dt := b }

/-- Write the sound timer (R32). -/
def State.setSt (s : State) (b : Byte) : State := { s with st := b }

/-- Write the display (R33). -/
def State.setDisp (s : State) (d : Display) : State := { s with disp := d }

/-- Write the fault latch (R35). -/
def State.setFault (s : State) (f : Option Fault) : State := { s with fault := f }

/-- Write the counter of draws (R132). -/
def State.setDraws (s : State) (n : Nat) : State := { s with draws := n }

/-- Put key flags on the input port (R34). -/
def State.setKeys (s : State) (k : Keys) : State := { s with keys := k }

/-- Write the counter of transactions (R155). -/
def State.setTurns (s : State) (n : Nat) : State := { s with turns := n }

/-- Take the key flags off the input port: the block does not keep them after the tick (R34). -/
def State.releaseKeys (s : State) : State := s.setKeys 0

/-- Write the pending host calls. -/
def State.setInbox (s : State) (l : List HostCall) : State := { s with inbox := l }

/-- Return a result to the host (R155). -/
def State.setReply (s : State) (r : Option Reply) : State := { s with reply := r }

/-- The stack pointer `depth` (R28). -/
def State.depth (s : State) : Nat := s.stack.length

/-- The sequential advance `pc <- (pc + 2) mod 2^16` (R80). -/
def State.advance (s : State) : State := s.setPc (s.pc + 2)

/-- The advance of a taken skip `pc <- (pc + 4) mod 2^16` (R81). -/
def State.skipNext (s : State) : State := s.setPc (s.pc + 4)

/-- The two advances of a conditional skip (R81). -/
def State.skipIf (s : State) (cond : Bool) : State := if cond then s.skipNext else s.advance

/-- Write the result to V[X] and then the flag to VF, so that with X = F the flag is what remains (R86). -/
def State.setRegThenFlag (s : State) (x : Reg) (result flag : Byte) : State := (s.setReg x result).setReg vf flag

/-- RAISING AN EXECUTIONFAULT, the one way an instruction, a fetch or a decode takes a fault: the latch is set, and nothing
else is written. The pc stays at the faulting instruction (R79, R135, R138). -/
def raise (f : Fault) (s : State) : Result := .next (s.setFault (some f))

/-- The `info` of an out-of-range access that starts at `base`: the lowest out-of-range address (R55, R56). -/
def outOfRangeInfo (base : Nat) : Word := BitVec.ofNat 16 (if memSize ≤ base then base else memSize)

/-- `InRange(base, n)` on exact integers (R56). -/
def inRange (base n : Nat) : Bool := decide (base + n ≤ memSize)

/-- `CheckRange(base, n)`: go on with `k`, or raise `OutOfBoundsMemory` before any write (R56). -/
def checkRange (base n : Nat) (s : State) (k : Result) : Result :=
  if inRange base n then k else raise (.outOfBoundsMemory (outOfRangeInfo base)) s

/-- `Push(v)` and going on with `k` in the state it leaves, or `StackOverflow` with nothing written (R29). -/
def push (w : Word) (s : State) (k : State → Result) : Result :=
  if s.depth < stackDepth then k (s.setStack (s.stack ++ [w])) else raise (.stackOverflow s.pc) s

/-- `Pop()` and going on with `k` at the value popped, or `StackUnderflow` with nothing written (R30). -/
def pop (s : State) (k : Word → State → Result) : Result :=
  match s.stack.getLast? with
  | none => raise (.stackUnderflow s.pc) s
  | some w => k w (s.setStack s.stack.dropLast)

end Sys2Proof.Machine
end

