-- ==== Sys2Proof/Machine/Flags.lean ====
section
/-! DEFINITION. The flag computations (spec/10_state.md R23, spec/41_alu.md R89 to R96): a flag is the byte 0 or 1 in VF,
computed from the exact operands. -/

namespace Sys2Proof.Machine

/-- A flag value as it is written to VF: 1 or 0 (R23). -/
def flagByte (b : Bool) : Byte := if b then 1 else 0

/-- The carry out of bit 7: the exact sum exceeds 255 (R92). -/
def carryFlag (a b : Byte) : Byte := flagByte (decide (255 < a.toNat + b.toNat))

/-- The flag of `a - b`: 1 when no borrow occurs, so when a ≥ b (R93, R95, conflict C1). -/
def notBorrowFlag (a b : Byte) : Byte := flagByte (decide (b.toNat ≤ a.toNat))

/-- The bit SHR shifts out: bit 0 (R94). -/
def shiftedOutRight (a : Byte) : Byte := a &&& 1

/-- The bit SHL shifts out: bit 7 (R96). -/
def shiftedOutLeft (a : Byte) : Byte := a >>> 7

/-- What OR, AND and XOR leave in VF after their result under a setting of `LOGIC_VF_RESET` (R89): 0, or what VF holds
then. -/
def logicFlag (clear : Bool) (old : Byte) : Byte := if clear then 0 else old

end Sys2Proof.Machine
end

