-- ==== Sys2Proof/Machine/Operands.lean ====
section
/-! DEFINITION. The operand forms: zero-extended addresses (spec/30_encoding.md R66), the source of a shift
(spec/41_alu.md R94, R96), the key index (spec/48_keys.md R127), the glyph address (spec/45_memory_index.md R111) and the
index-relative ranges of FX33, FX55, FX65 and DXYN (spec/20_memory.md R50). -/

namespace Sys2Proof.Machine

/-- `zext_16(NNN)` (R8, R66). -/
def zext16 (nnn : Addr) : Word := nnn.setWidth 16

/-- The operand of SHR and SHL under a setting of `SHIFT_SOURCE` (R94, R96). -/
def shiftOperand (src : ShiftSource) (x y : Reg) (s : State) : Byte :=
  match src with
  | .vy => s.reg y
  | .vx => s.reg x

/-- The low nibble of a register, the high nibble ignored (R111, R127). -/
def lowNibble (b : Byte) : Nibble := b.extractLsb' 0 4

/-- `Key(k)`: the input flag of key k in the current tick (R34, R127). -/
def State.keyPressed (s : State) (k : Nibble) : Bool := s.keys.getLsbD k.toNat

/-- The lowest-numbered pressed key, if any key is pressed (R130). -/
def State.lowestKey (s : State) : Option Nat := (List.range 16).find? (fun k => s.keys.getLsbD k)

/-- The address of the glyph of the digit in the low nibble: `FONT_BASE + 5 * (V[X] & 0x0F)` (R111). -/
def glyphAddress (b : Byte) : Word := BitVec.ofNat 16 (fontBase + glyphSize * (lowNibble b).toNat)

/-- The three decimal digits of a byte, most significant first (R133). -/
def decimalDigits (b : Byte) : List Byte := [b / 100, b / 10 % 10, b % 10]

/-- The number of registers of `V0..Vx` (R112, R113). -/
def regCount (x : Reg) : Nat := x.toNat + 1

/-- The contents of `V0..Vx`, V0 first (R112). -/
def State.regsUpTo (s : State) (x : Reg) : List Byte := s.v.toList.take (regCount x)

/-- The register file with `V0..Vx` loaded from consecutive bytes at `base` (R113). -/
def State.regsLoaded (s : State) (x : Reg) (base : Nat) : Vector Byte 16 :=
  Vector.ofFn (fun k => if k.val ≤ x.toNat then Memory.read s.mem (base + k.val) else s.v[k])

/-- What FX55 and FX65 leave in I under a setting of `MEM_I_INCREMENT` (R112, R113). -/
def indexAfter (inc : Bool) (x : Reg) (i : Word) : Word := if inc then i + BitVec.ofNat 16 (regCount x) else i

end Sys2Proof.Machine
end

