-- ==== Sys2Proof/Machine/Alu.lean ====
section
/-! DEFINITION. Arithmetic, logic and shifts (spec/41_alu.md R85 to R96). Operands are read before any write (R85), the
result is written before the flag (R86), and every instruction advances by 2. -/

namespace Sys2Proof.Machine

/-- The common form of OR, AND and XOR under a setting of `LOGIC_VF_RESET`: the result, then VF (R89). -/
def logicOp (clear : Bool) (x : Reg) (result : Byte) (s : State) : Result :=
  .next (((s.setReg x result).setReg vf (logicFlag clear ((s.setReg x result).reg vf))).advance)

/-- The common form of the instructions that write a result and then their flag (R86). -/
def flaggedOp (x : Reg) (result flag : Byte) (s : State) : Result :=
  .next ((s.setRegThenFlag x result flag).advance)

/-- SHR under a setting of `SHIFT_SOURCE` (R94). -/
def shiftRight (src : ShiftSource) (x y : Reg) (s : State) : Result :=
  flaggedOp x (shiftOperand src x y s >>> 1) (shiftedOutRight (shiftOperand src x y s)) s

/-- SHL under a setting of `SHIFT_SOURCE` (R96). -/
def shiftLeft (src : ShiftSource) (x y : Reg) (s : State) : Result :=
  flaggedOp x (shiftOperand src x y s <<< 1) (shiftedOutLeft (shiftOperand src x y s)) s

/-- ADD Vx, byte: no flag is written (R87). -/
def execAddImm (x : Reg) (nn : Byte) (s : State) : Result := .next ((s.setReg x (s.reg x + nn)).advance)

/-- LD Vx, Vy (R88). -/
def execLdReg (x y : Reg) (s : State) : Result := .next ((s.setReg x (s.reg y)).advance)

/-- OR Vx, Vy (R89). -/
def execOrReg (x y : Reg) (s : State) : Result := logicOp Config.logicVfReset x (s.reg x ||| s.reg y) s

/-- AND Vx, Vy (R90). -/
def execAndReg (x y : Reg) (s : State) : Result := logicOp Config.logicVfReset x (s.reg x &&& s.reg y) s

/-- XOR Vx, Vy (R91). -/
def execXorReg (x y : Reg) (s : State) : Result := logicOp Config.logicVfReset x (s.reg x ^^^ s.reg y) s

/-- ADD Vx, Vy (R92). -/
def execAddReg (x y : Reg) (s : State) : Result :=
  flaggedOp x (s.reg x + s.reg y) (carryFlag (s.reg x) (s.reg y)) s

/-- SUB Vx, Vy (R93). -/
def execSubReg (x y : Reg) (s : State) : Result :=
  flaggedOp x (s.reg x - s.reg y) (notBorrowFlag (s.reg x) (s.reg y)) s

/-- SHR Vx, Vy (R94). -/
def execShrReg (x y : Reg) (s : State) : Result := shiftRight Config.shiftSource x y s

/-- SUBN Vx, Vy (R95). -/
def execSubnReg (x y : Reg) (s : State) : Result :=
  flaggedOp x (s.reg y - s.reg x) (notBorrowFlag (s.reg y) (s.reg x)) s

/-- SHL Vx, Vy (R96). -/
def execShlReg (x y : Reg) (s : State) : Result := shiftLeft Config.shiftSource x y s

end Sys2Proof.Machine
end

