-- ==== Sys2Proof/Machine/Immediate.lean ====
section
/-! DEFINITION. The immediate load (spec/42_immediate.md R98). -/

namespace Sys2Proof.Machine

/-- LD Vx, byte (R98). -/
def execLdImm (x : Reg) (nn : Byte) (s : State) : Result := .next ((s.setReg x nn).advance)

end Sys2Proof.Machine
end

