-- ==== Sys2Proof/Machine/Index.lean ====
section
/-! DEFINITION. The memory and index-register instructions (spec/45_memory_index.md R108 to R113). -/

namespace Sys2Proof.Machine

/-- LD [I], Vx under a setting of `MEM_I_INCREMENT` (R112). -/
def storeRegs (inc : Bool) (x : Reg) (s : State) : Result :=
  checkRange s.i.toNat (regCount x) s
    (.next (((s.setMem (Memory.writeBytes s.mem s.i.toNat (s.regsUpTo x))).setI (indexAfter inc x s.i)).advance))

/-- LD Vx, [I] under a setting of `MEM_I_INCREMENT` (R113). -/
def loadRegs (inc : Bool) (x : Reg) (s : State) : Result :=
  checkRange s.i.toNat (regCount x) s
    (.next (((s.setRegs (s.regsLoaded x s.i.toNat)).setI (indexAfter inc x s.i)).advance))

/-- LD I, addr (R108). -/
def execLdI (nnn : Addr) (s : State) : Result := .next ((s.setI (zext16 nnn)).advance)

/-- ADD I, Vx: VF is not written (R109). -/
def execAddI (x : Reg) (s : State) : Result := .next ((s.setI (s.i + (s.reg x).setWidth 16)).advance)

/-- LD F, Vx (R111). -/
def execLdF (x : Reg) (s : State) : Result := .next ((s.setI (glyphAddress (s.reg x))).advance)

/-- LD [I], Vx (R112). -/
def execLdMemVx (x : Reg) (s : State) : Result := storeRegs Config.memIIncrement x s

/-- LD Vx, [I] (R113). -/
def execLdVxMem (x : Reg) (s : State) : Result := loadRegs Config.memIIncrement x s

end Sys2Proof.Machine
end

