-- ==== Sys2Proof/Machine/Jump.lean ====
section
/-! DEFINITION. Jump, call and return (spec/44_jump.md R103 to R106). They set the pc and do not add 2 (R82). -/

namespace Sys2Proof.Machine

/-- JP addr (R103). -/
def execJp (nnn : Addr) (s : State) : Result := .next (s.setPc (zext16 nnn))

/-- CALL addr: push the address of the next word, or fault on a full stack (R104). -/
def execCall (nnn : Addr) (s : State) : Result := push (s.pc + 2) s (fun s' => .next (s'.setPc (zext16 nnn)))

/-- RET: the popped value is the new pc as it is, or fault on an empty stack (R105). -/
def execRet (s : State) : Result := pop s (fun w s' => .next (s'.setPc w))

/-- JP V0, addr (R106). -/
def execJpV0 (nnn : Addr) (s : State) : Result := .next (s.setPc ((s.reg 0).setWidth 16 + zext16 nnn))

end Sys2Proof.Machine
end

