-- ==== Sys2Proof/Machine/KeyPad.lean ====
section
/-! DEFINITION. The key queries (spec/48_keys.md R127 to R130). They read the key flags of the current tick (R34). -/

namespace Sys2Proof.Machine

/-- SKP Vx (R128). -/
def execSkp (x : Reg) (s : State) : Result := .next (s.skipIf (s.keyPressed (lowNibble (s.reg x))))

/-- SKNP Vx (R129). -/
def execSknp (x : Reg) (s : State) : Result := .next (s.skipIf (!s.keyPressed (lowNibble (s.reg x))))

/-- LD Vx, K: the lowest pressed key, or nothing at all, so that the next tick runs it again (R130). -/
def execLdVxK (x : Reg) (s : State) : Result :=
  .next (match s.lowestKey with
    | some k => (s.setReg x (BitVec.ofNat 8 k)).advance
    | none => s)

end Sys2Proof.Machine
end

