-- ==== Sys2Proof/Machine/RandomBcd.lean ====
section
/-! DEFINITION. The random byte and the decimal store (spec/49_random_bcd.md R131 to R133). -/

namespace Sys2Proof.Machine

/-- RND Vx, byte: a free draw, masked (R131, R132). The draw is `Config.randByte` at the counter, which moves on. -/
def execRnd (x : Reg) (nn : Byte) (s : State) : Result :=
  .next (((s.setReg x (Config.randByte s.draws &&& nn)).setDraws (s.draws + 1)).advance)

/-- LD B, Vx: hundreds, tens and ones at I, I+1 and I+2, and I is not changed (R133). -/
def execLdB (x : Reg) (s : State) : Result :=
  checkRange s.i.toNat 3 s
    (.next ((s.setMem (Memory.writeBytes s.mem s.i.toNat (decimalDigits (s.reg x)))).advance))

end Sys2Proof.Machine
end

