-- ==== Sys2Proof/Machine/Screen.lean ====
section
/-! DEFINITION. The display, the XOR compositor and the collision detector (spec/46_display.md R114 to R119), and the two
instructions that use them, CLS and DRW. -/

namespace Sys2Proof.Machine

/-- `Pixel(x, y)` (R33). -/
def Display.pixel (d : Display) (x : Fin 64) (y : Fin 32) : Bool := (d[y]).getLsbD x

/-- `Pixel(x, y) <- Pixel(x, y) XOR 1` (R114). -/
def Display.flip (d : Display) (x : Fin 64) (y : Fin 32) : Display :=
  d.set y (d[y] ^^^ (1#64 <<< x.val)) y.isLt

/-- The display with every pixel 0 (R115). -/
def Display.clear : Display := Vector.replicate 32 0

/-- The display being drawn on, and whether a set pixel has been erased so far (R116). -/
abbrev Canvas := Display × Bool

/-- One sprite bit at one pixel: a 1 inverts the pixel and collides with a set one, a 0 changes nothing (R114, R117). -/
def drawPixel (x : Fin 64) (y : Fin 32) (bit : Bool) (c : Canvas) : Canvas :=
  if bit then (Display.flip c.1 x y, c.2 || Display.pixel c.1 x y) else c

/-- One sprite byte as a row of 8 pixels: bit 7 is at column `x0`, and columns wrap (R118, R119). -/
def drawRow (x0 : Nat) (y : Fin 32) (row : Byte) (c : Canvas) : Canvas :=
  (List.range 8).foldl (fun acc col => drawPixel (Fin.ofNat 64 (x0 + col)) y (row.getLsbD (7 - col)) acc) c

/-- The sprite's bytes as consecutive rows from row `y0` on, and rows wrap (R118, R119). -/
def drawRows (x0 : Nat) : Nat → List Byte → Canvas → Canvas
  | _, [], c => c
  | y0, row :: rest, c => drawRows x0 (y0 + 1) rest (drawRow x0 (Fin.ofNat 32 y0) row c)

/-- The sprite of `n` bytes at I drawn at (V[X], V[Y]), with the collision (R116). The start position wraps with the
pixels, `(V[X] + c) mod 64` being `((V[X] mod 64) + c) mod 64`. -/
def State.drawn (s : State) (x y : Reg) (n : Nat) : Canvas :=
  drawRows ((s.reg x).toNat % 64) ((s.reg y).toNat % 32) (Memory.readBytes s.mem s.i.toNat n) (s.disp, false)

/-- The state after a draw: the display, VF last, and the advance (R116). -/
def drawSprite (x y : Reg) (n : Nat) (s : State) : Result :=
  .next (((s.setDisp (s.drawn x y n).1).setReg vf (flagByte (s.drawn x y n).2)).advance)

/-- CLS: VF is not written (R115). -/
def execCls (s : State) : Result := .next ((s.setDisp Display.clear).advance)

/-- DRW Vx, Vy, nibble: a draw of no rows checks nothing and reads nothing (R57, R116). -/
def execDrw (x y : Reg) (n : Nibble) (s : State) : Result :=
  if n.toNat = 0 then drawSprite x y 0 s else checkRange s.i.toNat n.toNat s (drawSprite x y n.toNat s)

end Sys2Proof.Machine
end

