-- ==== Sys2Proof/Machine/Timers.lean ====
section
/-! DEFINITION. The timer instructions and the timer transaction with the audio gate (spec/47_timers.md R120 to R124). -/

namespace Sys2Proof.Machine

/-- LD Vx, DT (R120). -/
def execLdVxDt (x : Reg) (s : State) : Result := .next ((s.setReg x s.dt).advance)

/-- LD DT, Vx (R121). -/
def execLdDtVx (x : Reg) (s : State) : Result := .next ((s.setDt (s.reg x)).advance)

/-- LD ST, Vx (R122). -/
def execLdStVx (x : Reg) (s : State) : Result := .next ((s.setSt (s.reg x)).advance)

/-- One countdown step of a timer: down by 1 unless it is 0 (R123). -/
def countDown (b : Byte) : Byte := if b = 0 then 0 else b - 1

/-- `update_timers()`: each timer by its own test, whatever the fault latch holds (R123). -/
def State.updateTimers (s : State) : State := (s.setDt (countDown s.dt)).setSt (countDown s.st)

/-- The audio gate `sound_active` (R124). -/
def State.soundActive (s : State) : Bool := s.st != 0

end Sys2Proof.Machine
end

