-- ==== Sys2Proof/Syntax.lean ====
section
/-! DEFINITION. The instructions: one constructor for each of the 34 rows of spec/opcode_table.json, in the table's
order (spec/30_encoding.md R67). The operand types are the fields of R65 and R66, so an operand out of its field's range
cannot be written down. -/

namespace Sys2Proof

/-- An instruction of the block, after decoding (R67, R68). -/
inductive Instr where
  /-- `00E0` CLS (R115). -/
  | cls
  /-- `00EE` RET (R105). -/
  | ret
  /-- `1NNN` JP addr (R103). -/
  | jp (nnn : Addr)
  /-- `2NNN` CALL addr (R104). -/
  | call (nnn : Addr)
  /-- `3XNN` SE Vx, byte (R99). -/
  | seImm (x : Reg) (nn : Byte)
  /-- `4XNN` SNE Vx, byte (R100). -/
  | sneImm (x : Reg) (nn : Byte)
  /-- `5XY0` SE Vx, Vy (R101). -/
  | seReg (x y : Reg)
  /-- `6XNN` LD Vx, byte (R98). -/
  | ldImm (x : Reg) (nn : Byte)
  /-- `7XNN` ADD Vx, byte (R87). -/
  | addImm (x : Reg) (nn : Byte)
  /-- `8XY0` LD Vx, Vy (R88). -/
  | ldReg (x y : Reg)
  /-- `8XY1` OR Vx, Vy (R89). -/
  | orReg (x y : Reg)
  /-- `8XY2` AND Vx, Vy (R90). -/
  | andReg (x y : Reg)
  /-- `8XY3` XOR Vx, Vy (R91). -/
  | xorReg (x y : Reg)
  /-- `8XY4` ADD Vx, Vy (R92). -/
  | addReg (x y : Reg)
  /-- `8XY5` SUB Vx, Vy (R93). -/
  | subReg (x y : Reg)
  /-- `8XY6` SHR Vx, Vy (R94). -/
  | shrReg (x y : Reg)
  /-- `8XY7` SUBN Vx, Vy (R95). -/
  | subnReg (x y : Reg)
  /-- `8XYE` SHL Vx, Vy (R96). -/
  | shlReg (x y : Reg)
  /-- `9XY0` SNE Vx, Vy (R102). -/
  | sneReg (x y : Reg)
  /-- `ANNN` LD I, addr (R108). -/
  | ldI (nnn : Addr)
  /-- `BNNN` JP V0, addr (R106). -/
  | jpV0 (nnn : Addr)
  /-- `CXNN` RND Vx, byte (R131). -/
  | rnd (x : Reg) (nn : Byte)
  /-- `DXYN` DRW Vx, Vy, nibble (R116). -/
  | drw (x y : Reg) (n : Nibble)
  /-- `EX9E` SKP Vx (R128). -/
  | skp (x : Reg)
  /-- `EXA1` SKNP Vx (R129). -/
  | sknp (x : Reg)
  /-- `FX07` LD Vx, DT (R120). -/
  | ldVxDt (x : Reg)
  /-- `FX0A` LD Vx, K (R130). -/
  | ldVxK (x : Reg)
  /-- `FX15` LD DT, Vx (R121). -/
  | ldDtVx (x : Reg)
  /-- `FX18` LD ST, Vx (R122). -/
  | ldStVx (x : Reg)
  /-- `FX1E` ADD I, Vx (R109). -/
  | addI (x : Reg)
  /-- `FX29` LD F, Vx (R111). -/
  | ldF (x : Reg)
  /-- `FX33` LD B, Vx (R133). -/
  | ldB (x : Reg)
  /-- `FX55` LD [I], Vx (R112). -/
  | ldMemVx (x : Reg)
  /-- `FX65` LD Vx, [I] (R113). -/
  | ldVxMem (x : Reg)
deriving DecidableEq, Repr

/-- Why bytes are no instruction. -/
inductive Reject where
  /-- The word matches none of the 34 patterns: `UNKNOWN` of spec/30_encoding.md R68, illegal by R69. -/
  | unknown (op : Word)
  /-- Fewer than the two bytes every instruction takes (R64). -/
  | truncated
deriving DecidableEq, Repr

end Sys2Proof
end

