-- ==== Sys2Proof/Decode.lean ====
section
/-! DEFINITION. The fields of an opcode word, the decoder (the tree of spec/30_encoding.md R68, total, rejecting by name)
and after it the encoder (the layouts of R65). -/

namespace Sys2Proof

/-- The class nibble `op[15:12]` (R10, R65). -/
def fieldClass (op : Word) : BitVec 4 := op.extractLsb' 12 4

/-- `X = op[11:8]` (R10). -/
def fieldX (op : Word) : Reg := op.extractLsb' 8 4

/-- `Y = op[7:4]` (R10). -/
def fieldY (op : Word) : Reg := op.extractLsb' 4 4

/-- `N = op[3:0]` (R10). -/
def fieldN (op : Word) : Nibble := op.extractLsb' 0 4

/-- `NN = op[7:0]` (R10). -/
def fieldNN (op : Word) : Byte := op.extractLsb' 0 8

/-- `NNN = op[11:0]` (R10). -/
def fieldNNN (op : Word) : Addr := op.extractLsb' 0 12

/-- Class 0: only the words 00E0 and 00EE are legal (R68, R70). -/
def decodeClass0 (op : Word) : Except Reject Instr :=
  if op = 0x00E0#16 then .ok .cls
  else if op = 0x00EE#16 then .ok .ret
  else .error (.unknown op)

/-- Class 8: the low nibble selects the operation (R68). -/
def decodeClass8 (op : Word) : Except Reject Instr :=
  match (fieldN op).toNat with
  | 0x0 => .ok (.ldReg (fieldX op) (fieldY op))
  | 0x1 => .ok (.orReg (fieldX op) (fieldY op))
  | 0x2 => .ok (.andReg (fieldX op) (fieldY op))
  | 0x3 => .ok (.xorReg (fieldX op) (fieldY op))
  | 0x4 => .ok (.addReg (fieldX op) (fieldY op))
  | 0x5 => .ok (.subReg (fieldX op) (fieldY op))
  | 0x6 => .ok (.shrReg (fieldX op) (fieldY op))
  | 0x7 => .ok (.subnReg (fieldX op) (fieldY op))
  | 0xE => .ok (.shlReg (fieldX op) (fieldY op))
  | _ => .error (.unknown op)

/-- Class E: the low byte is 9E or A1 (R68, R71). -/
def decodeClassE (op : Word) : Except Reject Instr :=
  match (fieldNN op).toNat with
  | 0x9E => .ok (.skp (fieldX op))
  | 0xA1 => .ok (.sknp (fieldX op))
  | _ => .error (.unknown op)

/-- Class F: the low byte selects the operation (R68, R71). -/
def decodeClassF (op : Word) : Except Reject Instr :=
  match (fieldNN op).toNat with
  | 0x07 => .ok (.ldVxDt (fieldX op))
  | 0x0A => .ok (.ldVxK (fieldX op))
  | 0x15 => .ok (.ldDtVx (fieldX op))
  | 0x18 => .ok (.ldStVx (fieldX op))
  | 0x1E => .ok (.addI (fieldX op))
  | 0x29 => .ok (.ldF (fieldX op))
  | 0x33 => .ok (.ldB (fieldX op))
  | 0x55 => .ok (.ldMemVx (fieldX op))
  | 0x65 => .ok (.ldVxMem (fieldX op))
  | _ => .error (.unknown op)

/-- Classes 5 and 9 leave the low nibble no value but 0 (R68, R71). -/
def decodeIfZeroN (op : Word) (i : Instr) : Except Reject Instr :=
  if fieldN op = 0#4 then .ok i else .error (.unknown op)

/-- `Decode(op)` of R68: first the class nibble, then the field that the class needs. The last branch is not reached,
since a nibble is below 16. -/
def decodeWord (op : Word) : Except Reject Instr :=
  match (fieldClass op).toNat with
  | 0x0 => decodeClass0 op
  | 0x1 => .ok (.jp (fieldNNN op))
  | 0x2 => .ok (.call (fieldNNN op))
  | 0x3 => .ok (.seImm (fieldX op) (fieldNN op))
  | 0x4 => .ok (.sneImm (fieldX op) (fieldNN op))
  | 0x5 => decodeIfZeroN op (.seReg (fieldX op) (fieldY op))
  | 0x6 => .ok (.ldImm (fieldX op) (fieldNN op))
  | 0x7 => .ok (.addImm (fieldX op) (fieldNN op))
  | 0x8 => decodeClass8 op
  | 0x9 => decodeIfZeroN op (.sneReg (fieldX op) (fieldY op))
  | 0xA => .ok (.ldI (fieldNNN op))
  | 0xB => .ok (.jpV0 (fieldNNN op))
  | 0xC => .ok (.rnd (fieldX op) (fieldNN op))
  | 0xD => .ok (.drw (fieldX op) (fieldY op) (fieldN op))
  | 0xE => decodeClassE op
  | 0xF => decodeClassF op
  | _ => .error (.unknown op)

/-- The opcode word of two consecutive bytes: big-endian, the first byte is the high half (R51, R64). -/
def wordOfBytes (hi lo : Byte) : Word := hi ++ lo

/-- The first byte in memory of an opcode word (R51). -/
def highByte (w : Word) : Byte := w.extractLsb' 8 8

/-- The second byte in memory of an opcode word (R51). -/
def lowByte (w : Word) : Byte := w.extractLsb' 0 8

/-- The decoder over bytes: an instruction takes exactly two (R64), and the bytes after them are given back. -/
def decode : List Byte → Except Reject (Instr × List Byte)
  | hi :: lo :: rest =>
    match decodeWord (wordOfBytes hi lo) with
    | .ok i => .ok (i, rest)
    | .error e => .error e
  | _ => .error .truncated

/-- Layout `NNN` of R65. -/
def layoutNNN (cls : BitVec 4) (nnn : Addr) : Word := cls ++ nnn

/-- Layout `XNN` of R65. -/
def layoutXNN (cls : BitVec 4) (x : Reg) (nn : Byte) : Word := cls ++ x ++ nn

/-- Layouts `XY` and `XYN` of R65: `n` is the fixed sub field of the one and the count of the other. -/
def layoutXYN (cls : BitVec 4) (x y : Reg) (n : Nibble) : Word := cls ++ x ++ y ++ n

/-- Layout `X` of R65: the low byte is fixed. -/
def layoutX (cls : BitVec 4) (x : Reg) (sub : Byte) : Word := cls ++ x ++ sub

/-- The opcode word of an instruction, by the patterns of R67 in the layouts of R65. -/
def encodeWord : Instr → Word
  | .cls => 0x00E0#16
  | .ret => 0x00EE#16
  | .jp nnn => layoutNNN 0x1#4 nnn
  | .call nnn => layoutNNN 0x2#4 nnn
  | .seImm x nn => layoutXNN 0x3#4 x nn
  | .sneImm x nn => layoutXNN 0x4#4 x nn
  | .seReg x y => layoutXYN 0x5#4 x y 0x0#4
  | .ldImm x nn => layoutXNN 0x6#4 x nn
  | .addImm x nn => layoutXNN 0x7#4 x nn
  | .ldReg x y => layoutXYN 0x8#4 x y 0x0#4
  | .orReg x y => layoutXYN 0x8#4 x y 0x1#4
  | .andReg x y => layoutXYN 0x8#4 x y 0x2#4
  | .xorReg x y => layoutXYN 0x8#4 x y 0x3#4
  | .addReg x y => layoutXYN 0x8#4 x y 0x4#4
  | .subReg x y => layoutXYN 0x8#4 x y 0x5#4
  | .shrReg x y => layoutXYN 0x8#4 x y 0x6#4
  | .subnReg x y => layoutXYN 0x8#4 x y 0x7#4
  | .shlReg x y => layoutXYN 0x8#4 x y 0xE#4
  | .sneReg x y => layoutXYN 0x9#4 x y 0x0#4
  | .ldI nnn => layoutNNN 0xA#4 nnn
  | .jpV0 nnn => layoutNNN 0xB#4 nnn
  | .rnd x nn => layoutXNN 0xC#4 x nn
  | .drw x y n => layoutXYN 0xD#4 x y n
  | .skp x => layoutX 0xE#4 x 0x9E#8
  | .sknp x => layoutX 0xE#4 x 0xA1#8
  | .ldVxDt x => layoutX 0xF#4 x 0x07#8
  | .ldVxK x => layoutX 0xF#4 x 0x0A#8
  | .ldDtVx x => layoutX 0xF#4 x 0x15#8
  | .ldStVx x => layoutX 0xF#4 x 0x18#8
  | .addI x => layoutX 0xF#4 x 0x1E#8
  | .ldF x => layoutX 0xF#4 x 0x29#8
  | .ldB x => layoutX 0xF#4 x 0x33#8
  | .ldMemVx x => layoutX 0xF#4 x 0x55#8
  | .ldVxMem x => layoutX 0xF#4 x 0x65#8

/-- The bytes of an instruction as they stand in memory, the first at the lower address (R51). -/
def encode (i : Instr) : List Byte := [highByte (encodeWord i), lowByte (encodeWord i)]

/-- The opcode word that `nbits` bits of the number `w` give, bit 0 being the word's least significant bit, and every
bit above them 0 (the numbering of spec/opcode_table.json). -/
def tableWord (nbits w : Nat) : Word := BitVec.ofNat 16 (w % 2 ^ nbits)

/-- What the decoder reads from an instruction whose bits are `w`, laid out in memory as R51 says. -/
def decodeTableWord (nbits w : Nat) : Option Instr :=
  match decode [highByte (tableWord nbits w), lowByte (tableWord nbits w)] with
  | .ok (i, _) => some i
  | .error _ => none

end Sys2Proof
end

