-- ==== Sys2Proof/Machine/Fetch.lean ====
section
/-! DEFINITION. Instruction fetch (spec/40_cycle.md R77) and the placing of an instruction's bytes where a fetch finds
them (spec/20_memory.md R51). -/

namespace Sys2Proof.Machine

/-- The opcode word at address `a`: two consecutive bytes, the first one the high half (R51). -/
def wordAt (m : Memory) (a : Nat) : Word := wordOfBytes (Memory.read m a) (Memory.read m (a + 1))

/-- Fetch: both bytes are checked to lie in memory before either is read (R77). Any pc is allowed, odd ones too (R54). -/
def fetch (s : State) : Except Fault Word :=
  if inRange s.pc.toNat 2 then .ok (wordAt s.mem s.pc.toNat)
  else .error (.outOfBoundsMemory (outOfRangeInfo s.pc.toNat))

/-- Memory with an opcode word stored at address `a` (R51). -/
def storeWord (m : Memory) (a : Nat) (w : Word) : Memory := Memory.writeBytes m a [highByte w, lowByte w]

end Sys2Proof.Machine
end

