-- ==== Sys2Proof/Machine/Cycle.lean ====
section
/-! DEFINITION. One tick: fetch, decode, execute (spec/40_cycle.md R76 to R79, R83, R84), with the faults in the priority
of spec/60_exceptions.md R137. The key flags of the tick stand on the input port `keys`. -/

namespace Sys2Proof.Machine

/-- Decode and execute the fetched word: an illegal word raises `UnknownOpcode` (R78). -/
def runWord (op : Word) (s : State) : Result :=
  match decodeWord op with
  | .ok i => exec i s
  | .error _ => raise (.unknownOpcode op) s

/-- `Tick(keys)` of R79. With a latched fault it changes no state (R76). -/
def tick (s : State) : Result :=
  match s.fault with
  | some _ => .next s
  | none =>
    match fetch s with
    | .error f => raise f s
    | .ok op => runWord op s

/-- What a tick returns to the host: the fault that is latched after it, or `Ok` (R79, R84). -/
def tickReply (s : State) : Reply :=
  match s.fault with
  | some f => .fault f
  | none => .ok

/-- The end of a tick: the key flags leave the input port, since the block does not store them between ticks (R34), and
the result is handed to the host (R84). -/
def report (r : Result) : Result :=
  match r with
  | .next s => .next ((s.releaseKeys).setReply (some (tickReply s)))
  | .fault f => .fault f
  | .refused f => .refused f

end Sys2Proof.Machine
end

