-- ==== Sys2Proof/Machine/HostPort.lean ====
section
/-! DEFINITION. The host interface (spec/70_reset_and_hazards.md R151 to R161): `load_rom`, `state_read`, `state_write`, the
outputs, and each of the host's transactions as one atomic step. -/

namespace Sys2Proof.Machine

/-- `load_rom(bytes)`: the block's reset with a program image, or a refusal that changes nothing (R151, R152). The
model's own fields are not part of the machine: the calls still pending, the draws and transactions made and the input
port stay (assumptions 4 to 6). -/
def State.loadRom (s : State) (bytes : List Byte) : State × Reply :=
  if bytes.length ≤ maxRom then
    (((((State.reset.setMem (Memory.writeBytes [] entry bytes)).setDraws s.draws).setKeys s.keys).setTurns
      s.turns).setInbox s.inbox, .ok)
  else (s, .decodeError .romTooLarge)

/-- The output `display_buffer`: 2048 bits, bit `y * 64 + x` being `Pixel(x, y)` (R156). -/
def State.displayBuffer (s : State) : List Bool :=
  (List.range 2048).map (fun k => Display.pixel s.disp (Fin.ofNat 64 k) (Fin.ofNat 32 (k / 64)))

/-- The machine's part of a state (R35, R38): the model's own fields are set to their reset values, so that two states agree
in it exactly when they hold the same machine. -/
def State.machine (s : State) : State := { s with draws := 0, keys := 0, turns := 0, inbox := [], reply := none }

/-- The code of a fault (R134). -/
def Fault.code : Fault → Nat
  | .unknownOpcode _ => 1
  | .stackOverflow _ => 2
  | .stackUnderflow _ => 3
  | .outOfBoundsMemory _ => 4

/-- The 16-bit `info` of a fault (R134). -/
def Fault.info : Fault → Word
  | .unknownOpcode w => w
  | .stackOverflow w => w
  | .stackUnderflow w => w
  | .outOfBoundsMemory w => w

/-- The output `fault_status`: code and info, code 0 meaning no fault (R134, R155). DESIGN CHOICE, safe, assumption 19: the
spec gives no info value beside code 0, so the info there is a free value of the machine, which nothing of the model's own
can change (R157). -/
def State.faultStatus (s : State) : Nat × Word :=
  match s.fault with
  | none => (0, Config.noFaultInfo State s.machine)
  | some f => (f.code, f.info)

/-- The image of the whole state of R38 (R158). -/
def State.snapshot (s : State) : Image where
  tag := Config.versionTag
  mem := (Memory.readBytes s.mem 0 memSize).map BitVec.toNat
  v := s.v.toList.map BitVec.toNat
  i := s.i.toNat
  pc := s.pc.toNat
  depth := s.depth
  stack := s.stack.map BitVec.toNat
  dt := s.dt.toNat
  st := s.st.toNat
  disp := s.displayBuffer

/-- What `state_read` returns: the image, or a refusal when a fault is latched (R158, R159). -/
def State.stateRead (s : State) : Reply :=
  match s.fault with
  | none => .image s.snapshot
  | some _ => .readRefused

/-- Every number of a list fits `bits` bits (R160). -/
def allFit (bits : Nat) (l : List Nat) : Bool := l.all (fun n => n < 2 ^ bits)

/-- The image is complete (R160). -/
def Image.complete (img : Image) : Bool :=
  img.mem.length == memSize && img.v.length == 16 && img.stack.length == img.depth && img.disp.length == 2048

/-- Every value of the image fits its width (R160). -/
def Image.inWidth (img : Image) : Bool :=
  allFit 8 img.mem && allFit 8 img.v && allFit 16 img.stack && allFit 16 [img.i, img.pc] && allFit 8 [img.dt, img.st]

/-- A valid image: complete, the version tag matches, every value fits, and the depth is within the limit. The pc and I
need not be within memory (R160). -/
def Image.valid (img : Image) : Bool :=
  img.tag == Config.versionTag && img.complete && img.inWidth && decide (img.depth ≤ stackDepth)

/-- The display whose bit `y * 64 + x` is element `y * 64 + x` of the list (R156). -/
def Display.ofBits (l : List Bool) : Display :=
  Vector.ofFn (fun y : Fin 32 => BitVec.ofFnLE (fun x : Fin 64 => l.getD (y.val * 64 + x.val) false))

/-- The whole state replaced by an image's values, and the latch cleared (R160). -/
def State.restore (s : State) (img : Image) : State :=
  { s with
    mem := Memory.writeBytes [] 0 (img.mem.map (BitVec.ofNat 8))
    v := Vector.ofFn (fun k : Fin 16 => BitVec.ofNat 8 (img.v.getD k.val 0))
    i := BitVec.ofNat 16 img.i
    pc := BitVec.ofNat 16 img.pc
    stack := img.stack.map (BitVec.ofNat 16)
    dt := BitVec.ofNat 8 img.dt
    st := BitVec.ofNat 8 img.st
    disp := Display.ofBits img.disp
    fault := none }

/-- `state_write(image)`: the restore, or a refusal that changes nothing (R160, R161). -/
def State.stateWrite (s : State) (img : Image) : State × Reply :=
  if img.valid then (s.restore img, .ok) else (s, .decodeError .badImage)

/-- The state a transaction leaves, its result handed to the host (R155). -/
def answer (p : State × Reply) : State := p.1.setReply (some p.2)

/-- One transaction of the host, run to completion (R53, R155). -/
def transact (c : HostCall) (s : State) : Result :=
  match c with
  | .tick keys => report (tick (s.setKeys keys))
  | .updateTimers => .next (answer (s.updateTimers, .done))
  | .loadRom bytes => .next (answer (s.loadRom bytes))
  | .stateRead => .next (answer (s, s.stateRead))
  | .stateWrite img => .next (answer (s.stateWrite img))

/-- The host's next call: the first one pending, or else a tick, whose key flags are a free value (assumptions 5, 6). -/
def State.nextCall (s : State) : HostCall :=
  match s.inbox with
  | c :: _ => c
  | [] => .tick (Config.hostKeys s.turns)

/-- The state with the next call taken from the pending ones and counted. -/
def State.popCall (s : State) : State := (s.setInbox s.inbox.tail).setTurns (s.turns + 1)

/-- The pending calls with a tick in front, unless the next call is a tick already. -/
def State.tickFirst (s : State) : List HostCall :=
  match s.nextCall with
  | .tick _ => s.inbox
  | _ => .tick (Config.hostKeys s.turns) :: s.inbox

/-- The state with an opcode word stored at the pc, no fault latched and a tick as the next call, so that the very next
step fetches and runs it. Where the pc is at or above 0xFFF no word can stand there and the step faults (R77),
assumption 12. -/
def State.placeWord (s : State) (w : Word) : State :=
  ((s.setMem (storeWord s.mem s.pc.toNat w)).setFault none).setInbox s.tickFirst

end Sys2Proof.Machine
end

