-- ==== Sys2Proof/Machine/Step.lean ====
section
/-! DEFINITION. One step of the machine: one transaction of the host, run to completion (spec/70_reset_and_hazards.md
R155). -/

namespace Sys2Proof.Machine

/-- The host's next call is taken from the pending ones and performed (R53, R155). -/
def step (s : State) : Host.Outcome State Fault Refusal := transact s.nextCall s.popCall

/-- `s` with the instruction of the `nbits` bits `w` placed where the very next step runs it. -/
def State.withFetchWord (s : State) (nbits w : Nat) : State := s.placeWord (tableWord nbits w)

end Sys2Proof.Machine
end

