-- ==== Sys2Proof/Safety.lean ====
section
/-! DEFINITION. The terms claims are made in: the invariant of the state, what an instruction leaves unchanged, and when a
machine is idle. -/

namespace Sys2Proof.Machine

/-- The invariant of the state between two transactions: the memory is in its canonical form, all of it inside the 4096
bytes (R48), the stack holds at most `STACK_DEPTH` entries (R27), and no key flags are kept (R34). -/
abbrev State.Inv (s : State) : Prop := Memory.wf s.mem ∧ s.depth ≤ stackDepth ∧ s.keys = 0

/-- The parts of the state other than the general registers and the pc. -/
inductive Part where
  | index | memory | stack | delayTimer | soundTimer | display | latch | draws | port | turns | calls | reply
deriving DecidableEq, Repr

/-- `t` holds in this part what `s` holds. Memory is compared by the byte every address reads as. -/
def Part.same : Part → State → State → Prop
  | .index, s, t => t.i = s.i
  | .memory, s, t => ∀ a : Nat, Memory.read t.mem a = Memory.read s.mem a
  | .stack, s, t => t.stack = s.stack
  | .delayTimer, s, t => t.dt = s.dt
  | .soundTimer, s, t => t.st = s.st
  | .display, s, t => ∀ (x : Fin 64) (y : Fin 32), Display.pixel t.disp x y = Display.pixel s.disp x y
  | .latch, s, t => t.fault = s.fault
  | .draws, s, t => t.draws = s.draws
  | .port, s, t => t.keys = s.keys
  | .turns, s, t => t.turns = s.turns
  | .calls, s, t => t.inbox = s.inbox
  | .reply, s, t => t.reply = s.reply

/-- Every part but those listed is unchanged from `s` to `t`. -/
def partsKept (changed : List Part) (s t : State) : Prop := ∀ p : Part, p ∉ changed → p.same s t

/-- Every general register but those listed is unchanged from `s` to `t`. -/
def regsKept (changed : List Reg) (s t : State) : Prop := ∀ r : Reg, r ∉ changed → t.reg r = s.reg r

/-- Every byte of memory outside the `n` bytes at `base` reads in `t` as in `s`. -/
def memoryKeptOutside (base n : Nat) (s t : State) : Prop :=
  ∀ a : Nat, ¬ (base ≤ a ∧ a < base + n) → Memory.read t.mem a = Memory.read s.mem a

/-- The pc moves to the next word, modulo 2^16 (R80). -/
def pcAdvanced (s t : State) : Prop := t.pc.toNat = (s.pc.toNat + 2) % 65536

/-- The pc moves past the next word when `c` holds, and to the next word otherwise (R80, R81). -/
def pcSkippedIf (c : Prop) (s t : State) : Prop :=
  (c → t.pc.toNat = (s.pc.toNat + 4) % 65536) ∧ (¬ c → t.pc.toNat = (s.pc.toNat + 2) % 65536)

/-- A tick leaves the whole state as it was (R168). -/
def State.idle (s : State) : Prop := tick s = .next s

/-- The pixel the sprite of `n` bytes at I, drawn at (V[X], V[Y]), inverts: the bit of the sprite that lies on pixel (px, py)
when rows and columns wrap (R116, R118, R119). -/
def spriteCovers (s : State) (x y : Reg) (n : Nat) (px : Fin 64) (py : Fin 32) : Prop :=
  ∃ r c : Nat, r < n ∧ c < 8 ∧ px.val = ((s.reg x).toNat + c) % 64 ∧ py.val = ((s.reg y).toNat + r) % 32 ∧
    (Memory.read s.mem (s.i.toNat + r)).getLsbD (7 - c) = true

/-- How many bytes from I on an instruction accesses, 0 for one that accesses none through I (R50). -/
def indexedBytes : Instr → Nat
  | .ldB _ => 3
  | .ldMemVx x => x.toNat + 1
  | .ldVxMem x => x.toNat + 1
  | .drw _ _ n => n.toNat
  | _ => 0

/-- The instruction reads the key flags (R128 to R130). -/
def readsKeys : Instr → Prop
  | .skp _ => True
  | .sknp _ => True
  | .ldVxK _ => True
  | _ => False

/-- A list of numbers in which every one is below `bound` (R160). -/
def allBelow (bound : Nat) (l : List Nat) : Prop := ∀ n ∈ l, n < bound

/-- What R160 asks of a valid image, one clause for each of its conditions. -/
structure ImageFits (img : Image) : Prop where
  tagMatches : img.tag = Config.versionTag
  memComplete : img.mem.length = 4096
  regsComplete : img.v.length = 16
  stackComplete : img.stack.length = img.depth
  pixelsComplete : img.disp.length = 2048
  memFits : allBelow 256 img.mem
  regsFit : allBelow 256 img.v
  stackFits : allBelow 65536 img.stack
  indexFits : img.i < 65536
  pcFits : img.pc < 65536
  dtFits : img.dt < 256
  stFits : img.st < 256
  depthFits : img.depth ≤ 16

end Sys2Proof.Machine
end

