-- ==== Sys2Proof/Certificates/Slice0/Obligations.lean ====
section
/-! DEFINITION. The statements for the provers, each from the numbered rules of spec/ (OBLIGATIONS.json gives the rules and
the sentences). A next state `t` is described by what it holds: the registers and parts written, and then, as the frame,
everything that is kept. A program is mentioned nowhere. -/

open Sys2Proof Sys2Proof.Machine

/-! ## Encoding -/

/-- Decoding the bytes of any instruction, whatever bytes follow, gives the instruction back (R64 to R68). -/
def Obligations.DecodeOfEncodeIsTheInstruction : Prop :=
  ∀ (i : Instr) (rest : List Byte), decode (encode i ++ rest) = .ok (i, rest)

/-- R75: every form encodes to one word of the opcode map, and every legal word is exactly one form. -/
def Obligations.EveryLegalWordIsExactlyOneForm : Prop :=
  (∀ i : Instr, legalWord (encodeWord i) = true) ∧
  (∀ w : Word, legalWord w = true →
    ∃ i : Instr, encodeWord i = w ∧ decodeWord w = .ok i ∧ ∀ j : Instr, encodeWord j = w → j = i)

/-- R67: the 34 rows are pairwise disjoint, the decoded instruction is that of the row that covers the word, and fixed bits
alone select it. -/
def Obligations.FixedBitsSelectTheInstruction : Prop :=
  opcodeRows.length = 34 ∧ opcodeRows.Nodup ∧ ∀ w : Word,
    (∀ r ∈ opcodeRows, ∀ r' ∈ opcodeRows, r.covers w = true → r'.covers w = true → r = r') ∧
    (∀ i : Instr, decodeWord w = .ok i → i.row ∈ opcodeRows ∧ i.row.covers w = true) ∧
    (∀ r ∈ opcodeRows, r.covers w = true → ∃ i : Instr, decodeWord w = .ok i ∧ i.row = r)

/-- R69: the six sets of illegal words, and no other word is illegal. -/
def Obligations.IllegalWordsAreTheSixSets : Prop :=
  ∀ w : Word, decodeWord w = .error (.unknown w) ↔
    (w.toNat / 4096 = 0x0 ∧ w.toNat ≠ 0x00E0 ∧ w.toNat ≠ 0x00EE) ∨
    (w.toNat / 4096 = 0x5 ∧ w.toNat % 16 ≠ 0) ∨
    (w.toNat / 4096 = 0x8 ∧ w.toNat % 16 ∈ [0x8, 0x9, 0xA, 0xB, 0xC, 0xD, 0xF]) ∨
    (w.toNat / 4096 = 0x9 ∧ w.toNat % 16 ≠ 0) ∨
    (w.toNat / 4096 = 0xE ∧ w.toNat % 256 ∉ [0x9E, 0xA1]) ∨
    (w.toNat / 4096 = 0xF ∧ w.toNat % 256 ∉ [0x07, 0x0A, 0x15, 0x18, 0x1E, 0x29, 0x33, 0x55, 0x65])

/-- Words written out from R67, at least one for each family, decode to the instructions they stand for. -/
def Obligations.SampleWordsDecode : Prop :=
  decodeWord 0x8AB4#16 = .ok (.addReg 0xA 0xB) ∧ decodeWord 0x6F05#16 = .ok (.ldImm 0xF 0x05) ∧
  decodeWord 0x3A2B#16 = .ok (.seImm 0xA 0x2B) ∧ decodeWord 0x2ABC#16 = .ok (.call 0xABC) ∧
  decodeWord 0xA2F0#16 = .ok (.ldI 0x2F0) ∧ decodeWord 0xD12F#16 = .ok (.drw 0x1 0x2 0xF) ∧
  decodeWord 0xF715#16 = .ok (.ldDtVx 0x7) ∧ decodeWord 0xE3A1#16 = .ok (.sknp 0x3) ∧
  decodeWord 0xC30F#16 = .ok (.rnd 0x3 0x0F) ∧ decodeWord 0xF533#16 = .ok (.ldB 0x5)

/-! ## The cycle and the faults -/

/-- R79: a step whose call is a tick, on an unfaulted machine whose two bytes at the pc decode to `i`, is `exec i` on the state
with the call taken and its key flags on the port, the flags then taken off again (R34), and returns `Ok` when no fault is
latched after it and the fault when one is (R84, R136). -/
def Obligations.StepRunsTheDecodedInstruction : Prop :=
  ∀ (s : State) (k : Keys) (i : Instr), s.nextCall = .tick k → s.fault = none → s.pc.toNat + 1 < 4096 →
    decode [Memory.read s.mem s.pc.toNat, Memory.read s.mem (s.pc.toNat + 1)] = .ok (i, []) →
    ∃ t, exec i (s.popCall.setKeys k) = .next t ∧
      (t.fault = none → step s = .next ((t.setKeys 0).setReply (some .ok))) ∧
      (∀ f : Fault, t.fault = some f → step s = .next ((t.setKeys 0).setReply (some (.fault f))))

/-- R77, at the tick and at the step whose call is a tick: where both bytes are in memory the word is read big-endian, and
otherwise `OutOfBoundsMemory` is raised with 0x1000 at pc = 0xFFF and with the pc from 0x1000 on. -/
def Obligations.FetchReadsBigEndianOrFaults : Prop :=
  ∀ s : State, s.fault = none →
    (s.pc.toNat ≤ 0xFFE → ∃ op : Word, fetch s = .ok op ∧ tick s = runWord op s ∧
      (∀ k : Keys, s.nextCall = .tick k → step s = report (runWord op (s.popCall.setKeys k))) ∧
      op.toNat = (Memory.read s.mem s.pc.toNat).toNat * 256 + (Memory.read s.mem (s.pc.toNat + 1)).toNat) ∧
    (0xFFF ≤ s.pc.toNat → ∀ f : Fault, f = .outOfBoundsMemory (if 0x1000 ≤ s.pc.toNat then s.pc else 0x1000) →
      tick s = .next (s.setFault (some f)) ∧
      ∀ k : Keys, s.nextCall = .tick k →
        step s = .next (((s.popCall.setKeys 0).setFault (some f)).setReply (some (.fault f))))

/-- R78, at the tick and at the step whose call is a tick: a fetched word that no row of the opcode map covers raises
`UnknownOpcode` with the word. -/
def Obligations.IllegalWordRaisesUnknownOpcode : Prop :=
  ∀ (s : State) (op : Word), s.fault = none → fetch s = .ok op → legalWord op = false →
    tick s = .next (s.setFault (some (.unknownOpcode op))) ∧
    ∀ k : Keys, s.nextCall = .tick k →
      step s = .next (((s.popCall.setKeys 0).setFault (some (.unknownOpcode op))).setReply (some (.fault (.unknownOpcode op))))

/-- R76: with a latched fault a tick changes no state and returns that fault, and only `load_rom` and `state_write` clear or
change the latch. -/
def Obligations.LatchedFaultStaysUntilTheHostClearsIt : Prop :=
  ∀ (s : State) (f : Fault), s.fault = some f →
    (∀ k : Keys, s.nextCall = .tick k →
      step s = .next ((s.popCall.setKeys 0).setReply (some (.fault f)))) ∧
    (∀ t : State, step s = .next t → t.fault ≠ some f →
      (∃ b, s.nextCall = .loadRom b) ∨ (∃ img, s.nextCall = .stateWrite img))

/-- R135: a tick that raises a fault writes the latch and nothing else, and, as a step of the machine, returns it. R84: what
the step of any tick returns is `Ok` when no fault is latched after it and the latched fault otherwise. -/
def Obligations.RaisedFaultWritesOnlyTheLatch : Prop :=
  (∀ s t : State, s.fault = none → tick s = .next t → t.fault ≠ none → t = s.setFault t.fault) ∧
  (∀ (s t : State) (k : Keys), s.nextCall = .tick k → step s = .next t →
    (t.fault = none → t.reply = some .ok) ∧
    (∀ f : Fault, t.fault = some f → t.reply = some (.fault f)) ∧
    (∀ f : Fault, s.fault = none → t.fault = some f →
      t = ((s.popCall.setKeys 0).setFault (some f)).setReply (some (.fault f))))

/-- R134: what each fault is, as the host reads it: the code and the info. Without a fault the code is 0, and the rule gives no
info. -/
def Obligations.FaultStatusGivesCodeAndInfo : Prop :=
  ∀ s : State,
    (s.fault = none → s.faultStatus.1 = 0) ∧
    (∀ op : Word, s.fault = none → fetch s = .ok op → legalWord op = false →
      ∃ t, tick s = .next t ∧ t.faultStatus = (1, op)) ∧
    (∀ nnn : Addr, 16 ≤ s.depth → ∃ t, exec (.call nnn) s = .next t ∧ t.faultStatus = (2, s.pc)) ∧
    (s.depth = 0 → ∃ t, exec .ret s = .next t ∧ t.faultStatus = (3, s.pc)) ∧
    (s.fault = none → 4096 ≤ s.pc.toNat + 1 → ∃ t, tick s = .next t ∧
      t.faultStatus = (4, if 4096 ≤ s.pc.toNat then s.pc else 0x1000)) ∧
    (∀ i : Instr, 0 < indexedBytes i → 4096 < s.i.toNat + indexedBytes i → ∃ t, exec i s = .next t ∧
      t.faultStatus = (4, if 4096 ≤ s.i.toNat then s.i else 0x1000))

/-- An access through I whose range leaves the memory raises the fault before any write (R56). Inside the memory, and for a range
of no bytes whatever I holds, no instruction touches the latch but CALL and RET by their stack checks: this half is what R57
and R137, which the spec marks as derived, and the instruction rules come to. -/
def Obligations.RangeIsCheckedBeforeAnyWrite : Prop :=
  ∀ (i : Instr) (s : State),
    (0 < indexedBytes i → 4096 < s.i.toNat + indexedBytes i →
      exec i s = .next (s.setFault (some (.outOfBoundsMemory (if 4096 ≤ s.i.toNat then s.i else 0x1000))))) ∧
    (indexedBytes i = 0 ∨ s.i.toNat + indexedBytes i ≤ 4096 → (∀ nnn, i ≠ .call nnn) → i ≠ .ret →
      ∃ t, exec i s = .next t ∧ t.fault = s.fault)

/-- Every transaction completes in every state: no instruction is refused, and a step never ends in an outcome without a
state (R84, R155). -/
def Obligations.EveryStepGivesANextState : Prop :=
  (∀ s : State, ∃ t, step s = .next t) ∧ (∀ (i : Instr) (s : State), ∃ t, exec i s = .next t)

/-- Which instructions may change which part of the state, over all instructions: the rules on each part (R24, R27, R31 to
R33, R50), and the parts of the model's own. -/
def Obligations.OnlyTheNamedInstructionsWriteEachPart : Prop :=
  ∀ (i : Instr) (s t : State), exec i s = .next t →
    (t.dt ≠ s.dt → ∃ x, i = .ldDtVx x) ∧
    (t.st ≠ s.st → ∃ x, i = .ldStVx x) ∧
    (t.disp ≠ s.disp → i = .cls ∨ ∃ x y n, i = .drw x y n) ∧
    (t.stack ≠ s.stack → i = .ret ∨ ∃ nnn, i = .call nnn) ∧
    (t.mem ≠ s.mem → ∃ x, i = .ldB x ∨ i = .ldMemVx x) ∧
    (t.i ≠ s.i → (∃ nnn, i = .ldI nnn) ∨ ∃ x, i = .addI x ∨ i = .ldF x ∨ i = .ldMemVx x ∨ i = .ldVxMem x) ∧
    (t.draws ≠ s.draws → ∃ x nn, i = .rnd x nn) ∧
    t.keys = s.keys ∧ t.turns = s.turns ∧ t.inbox = s.inbox ∧ t.reply = s.reply

/-- The key flags matter to the three key instructions and to no other: with other flags on the port any other instruction
leaves the same state but for the port (R83). And a tick sees its own flags alone: what stood on the port before makes no
difference to a tick, which leaves nothing there (R34). -/
def Obligations.OnlyKeyInstructionsReadTheKeys : Prop :=
  (∀ (i : Instr) (s t : State) (k : Keys), ¬ readsKeys i → exec i s = .next t →
    exec i (s.setKeys k) = .next (t.setKeys k)) ∧
  (∀ (s t : State) (k j : Keys), s.nextCall = .tick k → step s = .next t →
    step (s.setKeys j) = .next t ∧ t.keys = 0)

/-- R168, with the third way a tick can leave the state as it was that R106 gives: an unfaulted machine is idle exactly when
the word at the pc is a jump to itself, FX0A with no key pressed, or a BNNN whose sum is its own address. -/
def Obligations.IdleMachineIsOneOfThree : Prop :=
  ∀ s : State, s.fault = none →
    (s.idle ↔ ∃ (op : Word) (i : Instr), fetch s = .ok op ∧ decodeWord op = .ok i ∧
      ((∃ nnn : Addr, i = .jp nnn ∧ nnn.toNat = s.pc.toNat) ∨
       (∃ x, i = .ldVxK x ∧ ∀ k < 16, s.keys.getLsbD k = false) ∨
       (∃ nnn : Addr, i = .jpV0 nnn ∧ (s.reg 0).toNat + nnn.toNat = s.pc.toNat)))

/-! ## Arithmetic, logic and shifts -/

/-- R87: the immediate is added modulo 256 and VF is not a flag here. -/
def Obligations.AddImmediateWrapsWithoutCarry : Prop :=
  ∀ (x : Reg) (nn : Byte) (s : State), decodeWord (0x7#4 ++ x ++ nn : BitVec 16) = .ok (.addImm x nn) ∧
    ∃ t, exec (.addImm x nn) s = .next t ∧ (t.reg x).toNat = ((s.reg x).toNat + nn.toNat) % 256 ∧
      pcAdvanced s t ∧ regsKept [x] s t ∧ partsKept [] s t

/-- R88: the register move. -/
def Obligations.MoveCopiesTheSourceRegister : Prop :=
  ∀ (x y : Reg) (s : State), decodeWord (0x8#4 ++ x ++ y ++ 0x0#4 : BitVec 16) = .ok (.ldReg x y) ∧
    ∃ t, exec (.ldReg x y) s = .next t ∧ t.reg x = s.reg y ∧
      pcAdvanced s t ∧ regsKept [x] s t ∧ partsKept [] s t

/-- R98: the immediate load. -/
def Obligations.LoadImmediateStoresTheByte : Prop :=
  ∀ (x : Reg) (nn : Byte) (s : State), decodeWord (0x6#4 ++ x ++ nn : BitVec 16) = .ok (.ldImm x nn) ∧
    ∃ t, exec (.ldImm x nn) s = .next t ∧ t.reg x = nn ∧
      pcAdvanced s t ∧ regsKept [x] s t ∧ partsKept [] s t

/-- R89 to R91: bit by bit, and VF last, as `LOGIC_VF_RESET` says: 0, or not touched after the result. -/
def Obligations.LogicIsBitwiseAndClearsVfByTheSwitch : Prop :=
  ∀ (x y : Reg) (s : State),
    decodeWord (0x8#4 ++ x ++ y ++ 0x1#4 : BitVec 16) = .ok (.orReg x y) ∧
    decodeWord (0x8#4 ++ x ++ y ++ 0x2#4 : BitVec 16) = .ok (.andReg x y) ∧
    decodeWord (0x8#4 ++ x ++ y ++ 0x3#4 : BitVec 16) = .ok (.xorReg x y) ∧
    ∀ (i : Instr) (f : Bool → Bool → Bool),
      (i = .orReg x y ∧ f = or) ∨ (i = .andReg x y ∧ f = and) ∨ (i = .xorReg x y ∧ f = xor) →
      ∃ t, exec i s = .next t ∧
        (x ≠ vf ∨ Config.logicVfReset = false → ∀ b < 8, (t.reg x).getLsbD b = f ((s.reg x).getLsbD b) ((s.reg y).getLsbD b)) ∧
        (Config.logicVfReset = true → t.reg vf = 0) ∧
        (Config.logicVfReset = false → x ≠ vf → t.reg vf = s.reg vf) ∧
        pcAdvanced s t ∧ regsKept [x, vf] s t ∧ partsKept [] s t

/-- R92: the sum modulo 256, and VF last: 1 exactly when the exact sum exceeds 255. -/
def Obligations.AddWrapsAndSetsTheCarry : Prop :=
  ∀ (x y : Reg) (s : State), decodeWord (0x8#4 ++ x ++ y ++ 0x4#4 : BitVec 16) = .ok (.addReg x y) ∧
    ∃ t, exec (.addReg x y) s = .next t ∧
      (x ≠ vf → (t.reg x).toNat = ((s.reg x).toNat + (s.reg y).toNat) % 256) ∧
      (t.reg vf).toNat = (if 255 < (s.reg x).toNat + (s.reg y).toNat then 1 else 0) ∧
      pcAdvanced s t ∧ regsKept [x, vf] s t ∧ partsKept [] s t

/-- R93: Vx minus Vy modulo 256, and VF last: 1 exactly when no borrow occurs. -/
def Obligations.SubtractWrapsAndSetsNotBorrow : Prop :=
  ∀ (x y : Reg) (s : State), decodeWord (0x8#4 ++ x ++ y ++ 0x5#4 : BitVec 16) = .ok (.subReg x y) ∧
    ∃ t, exec (.subReg x y) s = .next t ∧
      (x ≠ vf → ((t.reg x).toNat : Int) = ((s.reg x).toNat - (s.reg y).toNat : Int) % 256) ∧
      (t.reg vf).toNat = (if (s.reg y).toNat ≤ (s.reg x).toNat then 1 else 0) ∧
      pcAdvanced s t ∧ regsKept [x, vf] s t ∧ partsKept [] s t

/-- R95: Vy minus Vx modulo 256, and VF last: 1 exactly when no borrow occurs. -/
def Obligations.ReverseSubtractWrapsAndSetsNotBorrow : Prop :=
  ∀ (x y : Reg) (s : State), decodeWord (0x8#4 ++ x ++ y ++ 0x7#4 : BitVec 16) = .ok (.subnReg x y) ∧
    ∃ t, exec (.subnReg x y) s = .next t ∧
      (x ≠ vf → ((t.reg x).toNat : Int) = ((s.reg y).toNat - (s.reg x).toNat : Int) % 256) ∧
      (t.reg vf).toNat = (if (s.reg x).toNat ≤ (s.reg y).toNat then 1 else 0) ∧
      pcAdvanced s t ∧ regsKept [x, vf] s t ∧ partsKept [] s t

/-- R94: the operand `SHIFT_SOURCE` names, halved, and VF last: its bit 0. -/
def Obligations.ShiftRightHalvesTheSwitchedOperand : Prop :=
  ∀ (x y : Reg) (s : State), decodeWord (0x8#4 ++ x ++ y ++ 0x6#4 : BitVec 16) = .ok (.shrReg x y) ∧
    ∃ (t : State) (src : Byte), src = (if Config.shiftSource = .vy then s.reg y else s.reg x) ∧
      exec (.shrReg x y) s = .next t ∧
      (x ≠ vf → (t.reg x).toNat = src.toNat / 2) ∧ (t.reg vf).toNat = src.toNat % 2 ∧
      pcAdvanced s t ∧ regsKept [x, vf] s t ∧ partsKept [] s t

/-- R96: the operand `SHIFT_SOURCE` names, doubled modulo 256, and VF last: its bit 7. -/
def Obligations.ShiftLeftDoublesTheSwitchedOperand : Prop :=
  ∀ (x y : Reg) (s : State), decodeWord (0x8#4 ++ x ++ y ++ 0xE#4 : BitVec 16) = .ok (.shlReg x y) ∧
    ∃ (t : State) (src : Byte), src = (if Config.shiftSource = .vy then s.reg y else s.reg x) ∧
      exec (.shlReg x y) s = .next t ∧
      (x ≠ vf → (t.reg x).toNat = src.toNat * 2 % 256) ∧ (t.reg vf).toNat = src.toNat / 128 ∧
      pcAdvanced s t ∧ regsKept [x, vf] s t ∧ partsKept [] s t

/-! ## Skips, jumps and the stack -/

/-- R99 and R100: the skips that compare a register with an immediate. -/
def Obligations.SkipsCompareWithTheImmediate : Prop :=
  ∀ (x : Reg) (nn : Byte) (s : State),
    decodeWord (0x3#4 ++ x ++ nn : BitVec 16) = .ok (.seImm x nn) ∧
    decodeWord (0x4#4 ++ x ++ nn : BitVec 16) = .ok (.sneImm x nn) ∧
    (∃ t, exec (.seImm x nn) s = .next t ∧ pcSkippedIf ((s.reg x).toNat = nn.toNat) s t ∧
      regsKept [] s t ∧ partsKept [] s t) ∧
    (∃ t, exec (.sneImm x nn) s = .next t ∧ pcSkippedIf ((s.reg x).toNat ≠ nn.toNat) s t ∧
      regsKept [] s t ∧ partsKept [] s t)

/-- R101 and R102: the skips that compare two registers. A word of class 5 or 9 whose low nibble is not 0 is illegal. -/
def Obligations.SkipsCompareTwoRegisters : Prop :=
  ∀ (x y : Reg) (s : State),
    decodeWord (0x5#4 ++ x ++ y ++ 0x0#4 : BitVec 16) = .ok (.seReg x y) ∧
    decodeWord (0x9#4 ++ x ++ y ++ 0x0#4 : BitVec 16) = .ok (.sneReg x y) ∧
    (∀ n : Nibble, n ≠ 0 → ∀ w : Word, w = 0x5#4 ++ x ++ y ++ n ∨ w = 0x9#4 ++ x ++ y ++ n →
      runWord w s = .next (s.setFault (some (.unknownOpcode w)))) ∧
    (∃ t, exec (.seReg x y) s = .next t ∧ pcSkippedIf ((s.reg x).toNat = (s.reg y).toNat) s t ∧
      regsKept [] s t ∧ partsKept [] s t) ∧
    (∃ t, exec (.sneReg x y) s = .next t ∧ pcSkippedIf ((s.reg x).toNat ≠ (s.reg y).toNat) s t ∧
      regsKept [] s t ∧ partsKept [] s t)

/-- R103 and R106: the jump, and the jump with V0 added modulo 2^16. -/
def Obligations.JumpsSetThePc : Prop :=
  ∀ (nnn : Addr) (s : State),
    decodeWord (0x1#4 ++ nnn : BitVec 16) = .ok (.jp nnn) ∧
    decodeWord (0xB#4 ++ nnn : BitVec 16) = .ok (.jpV0 nnn) ∧
    (∃ t, exec (.jp nnn) s = .next t ∧ t.pc.toNat = nnn.toNat ∧ regsKept [] s t ∧ partsKept [] s t) ∧
    (∃ t, exec (.jpV0 nnn) s = .next t ∧ t.pc.toNat = ((s.reg 0).toNat + nnn.toNat) % 65536 ∧
      regsKept [] s t ∧ partsKept [] s t)

/-- R104 with R29: CALL pushes the address of the next word below the limit, and on a full stack raises `StackOverflow` with
nothing else written. -/
def Obligations.CallPushesTheNextAddressOrOverflows : Prop :=
  ∀ (nnn : Addr) (s : State), decodeWord (0x2#4 ++ nnn : BitVec 16) = .ok (.call nnn) ∧
    (s.depth < 16 → ∃ (t : State) (w : Word), exec (.call nnn) s = .next t ∧ t.pc.toNat = nnn.toNat ∧
      w.toNat = (s.pc.toNat + 2) % 65536 ∧ t.stack = s.stack ++ [w] ∧ t.depth = s.depth + 1 ∧
      regsKept [] s t ∧ partsKept [.stack] s t) ∧
    (16 ≤ s.depth → exec (.call nnn) s = .next (s.setFault (some (.stackOverflow s.pc))))

/-- R105 with R30: RET takes the newest entry as the pc, and on an empty stack raises `StackUnderflow` with nothing else
written. -/
def Obligations.ReturnPopsThePcOrUnderflows : Prop :=
  decodeWord 0x00EE#16 = .ok .ret ∧
  ∀ s : State,
    (∀ (l : List Word) (w : Word), s.stack = l ++ [w] → ∃ t, exec .ret s = .next t ∧ t.pc = w ∧ t.stack = l ∧
      t.depth + 1 = s.depth ∧ regsKept [] s t ∧ partsKept [.stack] s t) ∧
    (s.depth = 0 → exec .ret s = .next (s.setFault (some (.stackUnderflow s.pc))))

/-- A RET after a CALL comes back to the word after the CALL, with the stack as it was (R104, R105). -/
def Obligations.ReturnUndoesCall : Prop :=
  ∀ (nnn : Addr) (s : State), s.depth < 16 → ∃ t u, exec (.call nnn) s = .next t ∧ exec .ret t = .next u ∧
    pcAdvanced s u ∧ regsKept [] s u ∧ partsKept [] s u

/-! ## Memory and the index register -/

/-- R108: LD I, addr. -/
def Obligations.LoadIndexTakesTheAddress : Prop :=
  ∀ (nnn : Addr) (s : State), decodeWord (0xA#4 ++ nnn : BitVec 16) = .ok (.ldI nnn) ∧
    ∃ t, exec (.ldI nnn) s = .next t ∧ t.i.toNat = nnn.toNat ∧
      pcAdvanced s t ∧ regsKept [] s t ∧ partsKept [.index] s t

/-- R109: ADD I, Vx modulo 2^16, VF not written, and no fault. -/
def Obligations.AddToIndexWrapsWithoutFlag : Prop :=
  ∀ (x : Reg) (s : State), decodeWord (0xF#4 ++ x ++ 0x1E#8 : BitVec 16) = .ok (.addI x) ∧
    ∃ t, exec (.addI x) s = .next t ∧ t.i.toNat = (s.i.toNat + (s.reg x).toNat) % 65536 ∧
      pcAdvanced s t ∧ regsKept [] s t ∧ partsKept [.index] s t

/-- R111: I points at the 5-byte glyph of the low nibble, the high nibble ignored. -/
def Obligations.FontIndexIsFiveTimesTheDigit : Prop :=
  ∀ (x : Reg) (s : State), decodeWord (0xF#4 ++ x ++ 0x29#8 : BitVec 16) = .ok (.ldF x) ∧
    ∃ t, exec (.ldF x) s = .next t ∧ t.i.toNat = 5 * ((s.reg x).toNat % 16) ∧
      pcAdvanced s t ∧ regsKept [] s t ∧ partsKept [.index] s t

/-- R112: V0..Vx go to the bytes from I on, I moves as `MEM_I_INCREMENT` says, and a range that leaves the memory faults with
nothing written. -/
def Obligations.StoreRegistersWritesTheRangeAtI : Prop :=
  ∀ (x : Reg) (s : State), decodeWord (0xF#4 ++ x ++ 0x55#8 : BitVec 16) = .ok (.ldMemVx x) ∧
    (s.i.toNat + x.toNat < 4096 → ∃ t, exec (.ldMemVx x) s = .next t ∧
      (∀ r : Reg, r.toNat ≤ x.toNat → Memory.read t.mem (s.i.toNat + r.toNat) = s.reg r) ∧
      memoryKeptOutside s.i.toNat (x.toNat + 1) s t ∧
      t.i.toNat = (if Config.memIIncrement = true then (s.i.toNat + x.toNat + 1) % 65536 else s.i.toNat) ∧
      pcAdvanced s t ∧ regsKept [] s t ∧ partsKept [.index, .memory] s t) ∧
    (4096 ≤ s.i.toNat + x.toNat → exec (.ldMemVx x) s =
      .next (s.setFault (some (.outOfBoundsMemory (if 4096 ≤ s.i.toNat then s.i else 0x1000)))))

/-- R113: V0..Vx come from the bytes from I on, I moves as `MEM_I_INCREMENT` says, and a range that leaves the memory faults
with nothing written. -/
def Obligations.LoadRegistersReadsTheRangeAtI : Prop :=
  ∀ (x : Reg) (s : State), decodeWord (0xF#4 ++ x ++ 0x65#8 : BitVec 16) = .ok (.ldVxMem x) ∧
    (s.i.toNat + x.toNat < 4096 → ∃ t, exec (.ldVxMem x) s = .next t ∧
      (∀ r : Reg, r.toNat ≤ x.toNat → t.reg r = Memory.read s.mem (s.i.toNat + r.toNat)) ∧
      (∀ r : Reg, x.toNat < r.toNat → t.reg r = s.reg r) ∧
      t.i.toNat = (if Config.memIIncrement = true then (s.i.toNat + x.toNat + 1) % 65536 else s.i.toNat) ∧
      pcAdvanced s t ∧ partsKept [.index] s t) ∧
    (4096 ≤ s.i.toNat + x.toNat → exec (.ldVxMem x) s =
      .next (s.setFault (some (.outOfBoundsMemory (if 4096 ≤ s.i.toNat then s.i else 0x1000)))))

/-- R133: the three decimal digits of Vx, most significant first, at I, I+1 and I+2. -/
def Obligations.DecimalStoreWritesThreeDigits : Prop :=
  ∀ (x : Reg) (s : State), decodeWord (0xF#4 ++ x ++ 0x33#8 : BitVec 16) = .ok (.ldB x) ∧
    (s.i.toNat + 2 < 4096 → ∃ t, exec (.ldB x) s = .next t ∧
      (Memory.read t.mem s.i.toNat).toNat = (s.reg x).toNat / 100 ∧
      (Memory.read t.mem (s.i.toNat + 1)).toNat = (s.reg x).toNat / 10 % 10 ∧
      (Memory.read t.mem (s.i.toNat + 2)).toNat = (s.reg x).toNat % 10 ∧
      memoryKeptOutside s.i.toNat 3 s t ∧ pcAdvanced s t ∧ regsKept [] s t ∧ partsKept [.memory] s t) ∧
    (4096 ≤ s.i.toNat + 2 → exec (.ldB x) s =
      .next (s.setFault (some (.outOfBoundsMemory (if 4096 ≤ s.i.toNat then s.i else 0x1000)))))

/-- R61: what FX55 stores into the bytes of the next word is what the next fetch reads. -/
def Obligations.StoredWordIsFetchedNext : Prop :=
  ∀ (x : Reg) (s : State), 1 ≤ x.toNat → s.i.toNat = s.pc.toNat + 2 → s.i.toNat + x.toNat < 4096 →
    ∃ t, exec (.ldMemVx x) s = .next t ∧ fetch t = .ok (s.reg 0 ++ s.reg 1)

/-- What FX55 stores FX65 loads back into any register file, when I points at the range again: a read gives the most recent
write (R58). -/
def Obligations.StoredRegistersLoadBack : Prop :=
  ∀ (x : Reg) (s u : State), s.i.toNat + x.toNat < 4096 → ∃ t w, exec (.ldMemVx x) s = .next t ∧
    exec (.ldVxMem x) ((t.setI s.i).setRegs u.v) = .next w ∧
    ∀ r : Reg, w.reg r = if r.toNat ≤ x.toNat then s.reg r else u.reg r

/-! ## Display -/

/-- R115: every pixel becomes 0, and VF is not written. -/
def Obligations.ClearTurnsEveryPixelOff : Prop :=
  decodeWord 0x00E0#16 = .ok .cls ∧
  ∀ s : State, ∃ t, exec .cls s = .next t ∧
    (∀ (px : Fin 64) (py : Fin 32), Display.pixel t.disp px py = false) ∧
    pcAdvanced s t ∧ regsKept [] s t ∧ partsKept [.display] s t

/-- R116 to R119 with R114: exactly the pixels under a set sprite bit are inverted, wrapping at both edges, VF is 1 exactly
when one of them was set, and a range that leaves the memory faults with nothing written. -/
def Obligations.DrawInvertsTheSpritePixelsAndDetectsCollision : Prop :=
  ∀ (x y : Reg) (n : Nibble) (s : State), decodeWord (0xD#4 ++ x ++ y ++ n : BitVec 16) = .ok (.drw x y n) ∧
    (n = 0 ∨ s.i.toNat + n.toNat ≤ 4096 → ∃ t, exec (.drw x y n) s = .next t ∧
      (∀ (px : Fin 64) (py : Fin 32),
        (spriteCovers s x y n.toNat px py → Display.pixel t.disp px py = !Display.pixel s.disp px py) ∧
        (¬ spriteCovers s x y n.toNat px py → Display.pixel t.disp px py = Display.pixel s.disp px py)) ∧
      ((∃ px py, Display.pixel s.disp px py = true ∧ Display.pixel t.disp px py = false) → t.reg vf = 1) ∧
      ((∀ px py, Display.pixel s.disp px py = true → Display.pixel t.disp px py = true) → t.reg vf = 0) ∧
      pcAdvanced s t ∧ regsKept [vf] s t ∧ partsKept [.display] s t) ∧
    (n ≠ 0 → 4096 < s.i.toNat + n.toNat → exec (.drw x y n) s =
      .next (s.setFault (some (.outOfBoundsMemory (if 4096 ≤ s.i.toNat then s.i else 0x1000)))))

/-- The collision property of 95_test_vectors.md W3 with the condition of conflict C5: on a clear display a sprite never
collides, and drawn again at the same place it restores the clear display and collides exactly when it has a set bit. -/
def Obligations.DrawingTwiceErasesAndCollides : Prop :=
  ∀ (x y : Reg) (n : Nibble) (s : State), x ≠ vf → y ≠ vf → s.i.toNat + n.toNat ≤ 4096 →
    (∀ px py, Display.pixel s.disp px py = false) →
    ∃ t u, exec (.drw x y n) s = .next t ∧ exec (.drw x y n) t = .next u ∧ t.reg vf = 0 ∧
      (∀ px py, Display.pixel u.disp px py = false) ∧
      (u.reg vf = 1 ↔ ∃ r < n.toNat, Memory.read s.mem (s.i.toNat + r) ≠ 0)

/-! ## Timers, keys and the random byte -/

/-- R120 to R122: the three timer instructions. After FX18 the audio gate is open exactly when Vx is not 0, and a value of 1
keeps it open until the next `update_timers`. -/
def Obligations.TimerInstructionsCopyTheByte : Prop :=
  ∀ (x : Reg) (s : State),
    decodeWord (0xF#4 ++ x ++ 0x07#8 : BitVec 16) = .ok (.ldVxDt x) ∧
    decodeWord (0xF#4 ++ x ++ 0x15#8 : BitVec 16) = .ok (.ldDtVx x) ∧
    decodeWord (0xF#4 ++ x ++ 0x18#8 : BitVec 16) = .ok (.ldStVx x) ∧
    (∃ t, exec (.ldVxDt x) s = .next t ∧ t.reg x = s.dt ∧ pcAdvanced s t ∧ regsKept [x] s t ∧ partsKept [] s t) ∧
    (∃ t, exec (.ldDtVx x) s = .next t ∧ t.dt = s.reg x ∧
      pcAdvanced s t ∧ regsKept [] s t ∧ partsKept [.delayTimer] s t) ∧
    (∃ t, exec (.ldStVx x) s = .next t ∧ t.st = s.reg x ∧ (t.soundActive = true ↔ s.reg x ≠ 0) ∧
      (s.reg x = 1 → t.updateTimers.soundActive = false) ∧
      pcAdvanced s t ∧ regsKept [] s t ∧ partsKept [.soundTimer] s t)

/-- R123: each timer counts down by its own test, whatever the latch holds, and nothing else of the machine changes. -/
def Obligations.UpdateTimersCountsDownEachTimer : Prop :=
  ∀ s : State, s.nextCall = .updateTimers → ∃ t, step s = .next t ∧
    t.dt.toNat = s.dt.toNat - 1 ∧ t.st.toNat = s.st.toNat - 1 ∧ t.pc = s.pc ∧
    regsKept [] s t ∧ partsKept [.delayTimer, .soundTimer, .turns, .calls, .reply] s t

/-- R126 with R124: after n calls with no write in between a timer holds its value less n, down to 0, and the audio gate is on
exactly while the sound timer is not yet at 0. -/
def Obligations.TimersDecayToZero : Prop :=
  ∀ (n : Nat) (s : State),
    (State.updateTimers^[n] s).dt.toNat = s.dt.toNat - n ∧
    (State.updateTimers^[n] s).st.toNat = s.st.toNat - n ∧
    ((State.updateTimers^[n] s).soundActive = true ↔ n < s.st.toNat)

/-- R128 and R129 with R127: the key is the one of the low nibble of Vx. -/
def Obligations.KeySkipsTestTheKeyOfTheLowNibble : Prop :=
  ∀ (x : Reg) (s : State),
    decodeWord (0xE#4 ++ x ++ 0x9E#8 : BitVec 16) = .ok (.skp x) ∧
    decodeWord (0xE#4 ++ x ++ 0xA1#8 : BitVec 16) = .ok (.sknp x) ∧
    (∃ t, exec (.skp x) s = .next t ∧ pcSkippedIf (s.keys.getLsbD ((s.reg x).toNat % 16) = true) s t ∧
      regsKept [] s t ∧ partsKept [] s t) ∧
    (∃ t, exec (.sknp x) s = .next t ∧ pcSkippedIf (s.keys.getLsbD ((s.reg x).toNat % 16) = false) s t ∧
      regsKept [] s t ∧ partsKept [] s t)

/-- R130: the lowest pressed key is stored, and with no key pressed nothing at all is written. -/
def Obligations.WaitForKeyTakesTheLowestKey : Prop :=
  ∀ (x : Reg) (s : State), decodeWord (0xF#4 ++ x ++ 0x0A#8 : BitVec 16) = .ok (.ldVxK x) ∧
    (∀ k < 16, s.keys.getLsbD k = true → (∀ j < k, s.keys.getLsbD j = false) →
      ∃ t, exec (.ldVxK x) s = .next t ∧ (t.reg x).toNat = k ∧
        pcAdvanced s t ∧ regsKept [x] s t ∧ partsKept [] s t) ∧
    ((∀ k < 16, s.keys.getLsbD k = false) → exec (.ldVxK x) s = .next s)

/-- R131: the draw masked by NN. The draw is the free value of assumption 4 and the statement holds for every value of it: a
bit where NN is 0 is 0, and with NN = 0xFF the whole draw arrives. -/
def Obligations.RandomByteIsMasked : Prop :=
  ∀ (x : Reg) (nn : Byte) (s : State), decodeWord (0xC#4 ++ x ++ nn : BitVec 16) = .ok (.rnd x nn) ∧
    ∃ t, exec (.rnd x nn) s = .next t ∧
      (∀ b < 8, (t.reg x).getLsbD b = ((Config.randByte s.draws).getLsbD b && nn.getLsbD b)) ∧
      (nn = 0xFF → t.reg x = Config.randByte s.draws) ∧ (nn = 0 → t.reg x = 0) ∧
      pcAdvanced s t ∧ regsKept [x] s t ∧ partsKept [.draws] s t

/-- The model's side of R132 and of the free key flags (assumptions 4 and 5): CXNN moves the counter of draws on by one, no
step, a load or a restore among them, ever moves it back, and every step moves the counter of transactions on by one, so
that no free value is used twice. -/
def Obligations.DrawsAreNeverReused : Prop :=
  (∀ (x : Reg) (nn : Byte) (s : State), ∃ t, exec (.rnd x nn) s = .next t ∧ t.draws = s.draws + 1) ∧
  (∀ s t : State, step s = .next t → s.draws ≤ t.draws ∧ t.turns = s.turns + 1)

/-! ## Reset and the host interface -/

/-- R153: the state after power-on, element by element as R39 lists them, and that `load_rom` of an empty image gives it. -/
def Obligations.ResetHoldsTheSpecifiedValues : Prop :=
  (∀ r : Reg, State.reset.reg r = 0) ∧ State.reset.i = 0 ∧ State.reset.pc = 0x200 ∧ State.reset.depth = 0 ∧
  State.reset.dt = 0 ∧ State.reset.st = 0 ∧ State.reset.fault = none ∧
  (∀ px py, Display.pixel State.reset.disp px py = false) ∧
  (∀ a : Nat, a < 80 → Memory.read State.reset.mem a = fontBytes.getD a 0) ∧
  (∀ a : Nat, 80 ≤ a → a < 4096 → Memory.read State.reset.mem a = 0) ∧
  State.reset.loadRom [] = (State.reset, .ok)

/-- R151: `load_rom` of an image that fits puts every element at its reset value and the image at `ENTRY`. -/
def Obligations.LoadRomInstallsTheImageAndResets : Prop :=
  ∀ (s : State) (bytes : List Byte), s.nextCall = .loadRom bytes → bytes.length ≤ 3584 →
    ∃ t, step s = .next t ∧ t.reply = some .ok ∧
      (∀ r : Reg, t.reg r = 0) ∧ t.i = 0 ∧ t.pc = 0x200 ∧ t.depth = 0 ∧ t.dt = 0 ∧ t.st = 0 ∧ t.fault = none ∧
      (∀ px py, Display.pixel t.disp px py = false) ∧
      (∀ k : Nat, k < bytes.length → Memory.read t.mem (0x200 + k) = bytes.getD k 0) ∧
      (∀ a : Nat, a < 80 → Memory.read t.mem a = fontBytes.getD a 0) ∧
      (∀ a : Nat, 80 ≤ a → a < 4096 → ¬ (0x200 ≤ a ∧ a < 0x200 + bytes.length) → Memory.read t.mem a = 0)

/-- R110: the glyphs a load leaves at `FONT_BASE`, written out. -/
def Obligations.LoadRomInstallsTheFont : Prop :=
  ∀ (s : State) (bytes : List Byte), bytes.length ≤ 3584 → ∀ d < 16, ∀ k < 5,
    (Memory.read (s.loadRom bytes).1.mem (5 * d + k)).toNat =
      ([[0xF0, 0x90, 0x90, 0x90, 0xF0], [0x20, 0x60, 0x20, 0x20, 0x70], [0xF0, 0x10, 0xF0, 0x80, 0xF0],
        [0xF0, 0x10, 0xF0, 0x10, 0xF0], [0x90, 0x90, 0xF0, 0x10, 0x10], [0xF0, 0x80, 0xF0, 0x10, 0xF0],
        [0xF0, 0x80, 0xF0, 0x90, 0xF0], [0xF0, 0x10, 0x20, 0x40, 0x40], [0xF0, 0x90, 0xF0, 0x90, 0xF0],
        [0xF0, 0x90, 0xF0, 0x10, 0xF0], [0xF0, 0x90, 0xF0, 0x90, 0x90], [0xE0, 0x90, 0xE0, 0x90, 0xE0],
        [0xF0, 0x80, 0x80, 0x80, 0xF0], [0xE0, 0x90, 0x90, 0x90, 0xE0], [0xF0, 0x80, 0xF0, 0x80, 0xF0],
        [0xF0, 0x80, 0xF0, 0x80, 0x80]].getD d []).getD k 0

/-- R152: an image of more than 3584 bytes is refused with nothing of the machine changed, a latched fault among it, one of
exactly 3584 bytes fills the memory from 0x200 on, and the empty one leaves a machine whose first tick faults. -/
def Obligations.OversizedRomIsRefusedWhole : Prop :=
  ∀ (s : State) (bytes : List Byte), s.nextCall = .loadRom bytes →
    (3584 < bytes.length → step s = .next (s.popCall.setReply (some (.decodeError .romTooLarge)))) ∧
    (bytes.length = 3584 → ∃ t, step s = .next t ∧ t.reply = some .ok ∧
      ∀ a : Nat, 0x200 ≤ a → a < 4096 → Memory.read t.mem a = bytes.getD (a - 0x200) 0) ∧
    (bytes = [] → ∃ t, step s = .next t ∧ t.reply = some .ok ∧
      tick t = .next (t.setFault (some (.unknownOpcode 0))))

/-- R161: `state_write` of an image that breaks one of the conditions of R160 returns `DecodeError` and changes nothing of the
machine, a latched fault among it. -/
def Obligations.InvalidImageIsRefusedWhole : Prop :=
  ∀ (s : State) (img : Image), s.nextCall = .stateWrite img → ¬ ImageFits img →
    step s = .next (s.popCall.setReply (some (.decodeError .badImage)))

/-- `state_read` returns the whole state of an unfaulted machine element by element (R158) and is refused on a faulted one
(R159). It changes nothing of the machine and no output, and the outputs are functions of the machine alone, whatever the
model's own fields hold: that is R157, marked by the spec as derived. -/
def Obligations.StateReadReturnsTheWholeState : Prop :=
  (∀ s u : State, u.machine = s.machine →
    u.faultStatus = s.faultStatus ∧ u.soundActive = s.soundActive ∧ u.displayBuffer = s.displayBuffer) ∧
  ∀ s : State, s.nextCall = .stateRead →
    (∀ t : State, step s = .next t → t.machine = s.machine ∧
      t.faultStatus = s.faultStatus ∧ t.soundActive = s.soundActive ∧ t.displayBuffer = s.displayBuffer) ∧
    (s.fault ≠ none → step s = .next (s.popCall.setReply (some .readRefused))) ∧
    (s.fault = none → ∃ img : Image, step s = .next (s.popCall.setReply (some (.image img))) ∧
      img.mem.length = 4096 ∧ (∀ a < 4096, img.mem.getD a 0 = (Memory.read s.mem a).toNat) ∧
      img.v.length = 16 ∧ (∀ r : Reg, img.v.getD r.toNat 0 = (s.reg r).toNat) ∧
      img.i = s.i.toNat ∧ img.pc = s.pc.toNat ∧ img.depth = s.depth ∧ img.stack = s.stack.map BitVec.toNat ∧
      img.dt = s.dt.toNat ∧ img.st = s.st.toNat ∧ img.disp.length = 2048 ∧
      (∀ (px : Fin 64) (py : Fin 32), img.disp.getD (py.val * 64 + px.val) false = Display.pixel s.disp px py))

/-- R160: `state_write` of a valid image replaces the whole state by the image's values and clears the latch. -/
def Obligations.StateWriteInstallsAValidImage : Prop :=
  ∀ (s : State) (img : Image), s.nextCall = .stateWrite img → ImageFits img →
    ∃ t, step s = .next t ∧ t.reply = some .ok ∧ t.fault = none ∧
      (∀ a < 4096, (Memory.read t.mem a).toNat = img.mem.getD a 0) ∧
      (∀ r : Reg, (t.reg r).toNat = img.v.getD r.toNat 0) ∧
      t.i.toNat = img.i ∧ t.pc.toNat = img.pc ∧ t.depth = img.depth ∧ t.stack.map BitVec.toNat = img.stack ∧
      t.dt.toNat = img.dt ∧ t.st.toNat = img.st ∧
      (∀ (px : Fin 64) (py : Fin 32), Display.pixel t.disp px py = img.disp.getD (py.val * 64 + px.val) false)

/-- R162: writing what was read from an unfaulted machine `s` into any machine `m` gives `s`, but for the model's own
fields, which stay those of `m`. -/
def Obligations.SnapshotRoundTrip : Prop :=
  ∀ s m : State, s.Inv → s.fault = none →
    m.stateWrite s.snapshot =
      (((((s.setDraws m.draws).setKeys m.keys).setTurns m.turns).setInbox m.inbox).setReply m.reply, .ok)

/-- R156: the display buffer is 2048 bits, row-major. -/
def Obligations.DisplayBufferIsRowMajor : Prop :=
  ∀ s : State, s.displayBuffer.length = 2048 ∧
    ∀ (px : Fin 64) (py : Fin 32), s.displayBuffer[py.val * 64 + px.val]? = some (Display.pixel s.disp px py)

/-! ## Invariants -/

/-- The state after reset meets the invariant: no byte of memory differs from the reset contents and the stack is empty (R39), and
no key flags stand on the port, which is R34 and the reset value the model gives its own field (assumption 5). -/
def Obligations.ResetMeetsTheInvariant : Prop := State.reset.Inv

/-- Every step of the machine, whichever transaction it performs, keeps the invariant: the memory stays in its canonical form
inside the 4096 bytes (R48), the stack never holds more than 16 entries (R27), and no key flags are kept (R34). -/
def Obligations.EveryStepKeepsTheInvariant : Prop :=
  ∀ s t : State, s.Inv → step s = .next t → t.Inv
end

