-- ==== Sys2Proof/Laws/Decode.lean ====
section
/-! SUPPORT. The fields of the words the four layouts build (spec/30_encoding.md R65, R66): each field reads back whole, so
that a proof about decoding an encoded instruction rewrites with these and never opens a bit vector. -/

namespace Sys2Proof

/-- Concatenation as arithmetic: the left part is the high part (R8). -/
theorem append_toNat {n m : Nat} (a : BitVec n) (b : BitVec m) : (a ++ b).toNat = a.toNat * 2 ^ m + b.toNat := by
  rw [BitVec.toNat_append, ← Nat.shiftLeft_add_eq_or_of_lt b.isLt, Nat.shiftLeft_eq]

theorem fieldClass_eq (w : Word) : (fieldClass w).toNat = w.toNat / 4096 := by
  simp [fieldClass, BitVec.extractLsb'_toNat, Nat.shiftRight_eq_div_pow]
  omega

theorem fieldX_eq (w : Word) : (fieldX w).toNat = w.toNat / 256 % 16 := by
  simp [fieldX, BitVec.extractLsb'_toNat, Nat.shiftRight_eq_div_pow]

theorem fieldY_eq (w : Word) : (fieldY w).toNat = w.toNat / 16 % 16 := by
  simp [fieldY, BitVec.extractLsb'_toNat, Nat.shiftRight_eq_div_pow]

theorem fieldN_eq (w : Word) : (fieldN w).toNat = w.toNat % 16 := by
  simp [fieldN, BitVec.extractLsb'_toNat]

theorem fieldNN_eq (w : Word) : (fieldNN w).toNat = w.toNat % 256 := by
  simp [fieldNN, BitVec.extractLsb'_toNat]

theorem fieldNNN_eq (w : Word) : (fieldNNN w).toNat = w.toNat % 4096 := by
  simp [fieldNNN, BitVec.extractLsb'_toNat]

theorem layoutNNN_toNat (c : BitVec 4) (nnn : Addr) :
    (layoutNNN c nnn).toNat = c.toNat * 4096 + nnn.toNat := by
  simp only [layoutNNN, append_toNat, Nat.reducePow]

theorem layoutX_toNat (c : BitVec 4) (x : Reg) (b : Byte) :
    (layoutX c x b).toNat = c.toNat * 4096 + x.toNat * 256 + b.toNat := by
  simp only [layoutX, append_toNat]
  omega

theorem layoutXNN_toNat (c : BitVec 4) (x : Reg) (nn : Byte) :
    (layoutXNN c x nn).toNat = c.toNat * 4096 + x.toNat * 256 + nn.toNat := layoutX_toNat c x nn

theorem layoutXYN_toNat (c : BitVec 4) (x y : Reg) (n : Nibble) :
    (layoutXYN c x y n).toNat = c.toNat * 4096 + x.toNat * 256 + y.toNat * 16 + n.toNat := by
  simp only [layoutXYN, append_toNat]
  omega

variable (c : BitVec 4) (x y : Reg) (n : Nibble) (nn : Byte) (nnn : Addr)

@[simp] theorem fieldClass_layoutNNN : fieldClass (layoutNNN c nnn) = c := by
  apply BitVec.eq_of_toNat_eq
  rw [fieldClass_eq, layoutNNN_toNat]
  omega

@[simp] theorem fieldNNN_layoutNNN : fieldNNN (layoutNNN c nnn) = nnn := by
  apply BitVec.eq_of_toNat_eq
  rw [fieldNNN_eq, layoutNNN_toNat]
  omega

@[simp] theorem fieldClass_layoutX : fieldClass (layoutX c x nn) = c := by
  apply BitVec.eq_of_toNat_eq
  rw [fieldClass_eq, layoutX_toNat]
  omega

@[simp] theorem fieldX_layoutX : fieldX (layoutX c x nn) = x := by
  apply BitVec.eq_of_toNat_eq
  rw [fieldX_eq, layoutX_toNat]
  omega

@[simp] theorem fieldNN_layoutX : fieldNN (layoutX c x nn) = nn := by
  apply BitVec.eq_of_toNat_eq
  rw [fieldNN_eq, layoutX_toNat]
  omega

@[simp] theorem fieldClass_layoutXNN : fieldClass (layoutXNN c x nn) = c := fieldClass_layoutX c x nn

@[simp] theorem fieldX_layoutXNN : fieldX (layoutXNN c x nn) = x := fieldX_layoutX c x nn

@[simp] theorem fieldNN_layoutXNN : fieldNN (layoutXNN c x nn) = nn := fieldNN_layoutX c x nn

@[simp] theorem fieldClass_layoutXYN : fieldClass (layoutXYN c x y n) = c := by
  apply BitVec.eq_of_toNat_eq
  rw [fieldClass_eq, layoutXYN_toNat]
  omega

@[simp] theorem fieldX_layoutXYN : fieldX (layoutXYN c x y n) = x := by
  apply BitVec.eq_of_toNat_eq
  rw [fieldX_eq, layoutXYN_toNat]
  omega

@[simp] theorem fieldY_layoutXYN : fieldY (layoutXYN c x y n) = y := by
  apply BitVec.eq_of_toNat_eq
  rw [fieldY_eq, layoutXYN_toNat]
  omega

@[simp] theorem fieldN_layoutXYN : fieldN (layoutXYN c x y n) = n := by
  apply BitVec.eq_of_toNat_eq
  rw [fieldN_eq, layoutXYN_toNat]
  omega

/-- The two bytes of a word give the word back (R51). -/
@[simp] theorem wordOfBytes_split (w : Word) : wordOfBytes (highByte w) (lowByte w) = w := by
  apply BitVec.eq_of_toNat_eq
  simp only [wordOfBytes, append_toNat, highByte, lowByte, BitVec.extractLsb'_toNat, Nat.shiftRight_eq_div_pow]
  omega

theorem wordOfBytes_toNat (hi lo : Byte) : (wordOfBytes hi lo).toNat = hi.toNat * 256 + lo.toNat := by
  simp only [wordOfBytes, append_toNat, Nat.reducePow]

/-- The first byte of a word laid out in memory is its high half (R51). -/
theorem highByte_eq (hi lo : Byte) : highByte (wordOfBytes hi lo) = hi := by
  apply BitVec.eq_of_toNat_eq
  have h := wordOfBytes_toNat hi lo
  simp only [highByte, BitVec.extractLsb'_toNat, Nat.shiftRight_eq_div_pow, h]
  omega

/-- The second byte of a word laid out in memory is its low half (R51). -/
theorem lowByte_eq (hi lo : Byte) : lowByte (wordOfBytes hi lo) = lo := by
  apply BitVec.eq_of_toNat_eq
  have h := wordOfBytes_toNat hi lo
  simp only [lowByte, BitVec.extractLsb'_toNat, Nat.shiftRight_eq_div_pow, h]
  omega

/-! ### The fixed bits under the masks of the opcode map -/

theorem getLsbD_layoutXYN (k : Nat) : (layoutXYN c x y n).getLsbD k =
    if k < 4 then n.getLsbD k else if k < 8 then y.getLsbD (k - 4)
    else if k < 12 then x.getLsbD (k - 8) else c.getLsbD (k - 12) := by
  change (c ++ x ++ y ++ n : BitVec (4 + 4 + 4 + 4)).getLsbD k = _
  simp only [BitVec.getLsbD_append]
  by_cases h4 : k < 4
  · simp [h4]
  · by_cases h8 : k < 8
    · simp [h4, h8, show k - 4 < 4 by omega]
    · by_cases h12 : k < 12
      · simp [h4, h8, h12, show ¬ k - 4 < 4 by omega, show k - 8 < 4 by omega, show k - 4 - 4 = k - 8 by omega]
      · simp [h4, h8, h12, show ¬ k - 4 < 4 by omega, show ¬ k - 4 - 4 < 4 by omega,
          show k - 4 - 4 - 4 = k - 12 by omega]

theorem layoutX_eq : layoutX c x nn = layoutXYN c x (nn.extractLsb' 4 4) (nn.extractLsb' 0 4) := by
  apply BitVec.eq_of_toNat_eq
  rw [layoutX_toNat, layoutXYN_toNat]
  simp only [BitVec.extractLsb'_toNat, Nat.shiftRight_eq_div_pow]
  omega

/-- The mask of the rows selected by the class alone (R67). -/
theorem and_classMask (w : Word) : w &&& 0xF000#16 = layoutXYN (fieldClass w) 0 0 0 := by
  refine BitVec.eq_of_getLsbD_eq fun k hk => ?_
  rw [BitVec.getLsbD_and, getLsbD_layoutXYN]
  interval_cases k <;> simp [fieldClass]

/-- The mask of the rows selected by the class and the low nibble (R67). -/
theorem and_nibbleMask (w : Word) : w &&& 0xF00F#16 = layoutXYN (fieldClass w) 0 0 (fieldN w) := by
  refine BitVec.eq_of_getLsbD_eq fun k hk => ?_
  rw [BitVec.getLsbD_and, getLsbD_layoutXYN]
  interval_cases k <;> simp [fieldClass, fieldN]

/-- The mask of the rows selected by the class and the low byte (R67). -/
theorem and_byteMask (w : Word) : w &&& 0xF0FF#16 = layoutX (fieldClass w) 0 (fieldNN w) := by
  refine BitVec.eq_of_getLsbD_eq fun k hk => ?_
  rw [layoutX_eq, BitVec.getLsbD_and, getLsbD_layoutXYN]
  interval_cases k <;> simp [fieldClass, fieldNN]

end Sys2Proof
end

