-- ==== Sys2Proof/Laws/Memory.lean ====
section
/-! SUPPORT. The laws of memory: a read after a write, the canonical form kept by every operation, and two canonical
memories that read alike being equal (spec/20_memory.md R52, R58). -/

namespace Sys2Proof.Machine

@[simp] theorem Memory.read_nil (a : Nat) : Memory.read [] a = Memory.unlisted a := rfl

theorem Memory.read_erase (m : Memory) (a b : Nat) :
    Memory.read (Memory.erase m a) b = if b = a then Memory.unlisted a else Memory.read m b := by
  induction m with
  | nil => by_cases h : b = a <;> simp [Memory.erase, h]
  | cons c rest ih =>
    simp only [Memory.erase] at ih
    by_cases hc : c.1 = a <;> by_cases hb : b = a <;> simp_all [Memory.erase, Memory.read]
    intro h
    omega

theorem Memory.read_insert (m : Memory) (a b : Nat) (v : Byte) :
    Memory.read (Memory.insert m a v) b = if b = a then v else Memory.read m b := by
  induction m with
  | nil => simp [Memory.insert, Memory.read, eq_comm]
  | cons c rest ih =>
    unfold Memory.insert
    split
    · simp [Memory.read, eq_comm]
    · split
      · rename_i h
        subst h
        by_cases hb : b = c.1 <;> simp [Memory.read, hb, eq_comm]
      · rename_i h
        by_cases hb : c.1 = b
        · subst hb
          simp [Memory.read, show ¬ c.1 = a from fun e => h e.symm]
        · simp [Memory.read, hb, ih]

/-- A read after a write: the byte written at its address, and everywhere else the byte that was there (R58). -/
theorem Memory.read_write (m : Memory) (a b : Nat) (v : Byte) (h : a < memSize) :
    Memory.read (Memory.write m a v) b = if b = a then v else Memory.read m b := by
  unfold Memory.write
  rw [if_pos h]
  split
  · rename_i hv
    rw [Memory.read_erase, hv]
  · exact Memory.read_insert m a b v

/-- Outside the address space there is nothing to write. -/
theorem Memory.write_of_le (m : Memory) (a : Nat) (v : Byte) (h : memSize ≤ a) : Memory.write m a v = m := by
  simp [Memory.write, Nat.not_lt.mpr h]

/-- A read after the write of a list of bytes at consecutive addresses (R52). -/
theorem Memory.read_writeBytes (l : List Byte) (m : Memory) (a b : Nat) (h : a + l.length ≤ memSize) :
    Memory.read (Memory.writeBytes m a l) b =
      if a ≤ b ∧ b < a + l.length then l.getD (b - a) 0 else Memory.read m b := by
  induction l generalizing m a with
  | nil =>
    rw [Memory.writeBytes, if_neg (by simp)]
  | cons v rest ih =>
    simp only [List.length_cons] at h
    rw [Memory.writeBytes, ih _ _ (by omega), Memory.read_write _ _ _ _ (by omega)]
    by_cases h1 : b = a
    · subst h1
      simp
    · by_cases h2 : a + 1 ≤ b ∧ b < a + 1 + rest.length
      · rw [if_pos h2, if_pos (by simp; omega)]
        obtain ⟨k, rfl⟩ : ∃ k, b = a + 1 + k := ⟨b - (a + 1), by omega⟩
        rw [show a + 1 + k - (a + 1) = k by omega, show a + 1 + k - a = k + 1 by omega]
        simp
      · rw [if_neg h2, if_neg h1, if_neg (by simp; omega)]

theorem Memory.wf_nil : Memory.wf [] := by simp [Memory.wf]

theorem Memory.wf_erase {m : Memory} (h : Memory.wf m) (a : Nat) : Memory.wf (Memory.erase m a) :=
  ⟨h.1.filter _, fun c hc => h.2 c (List.mem_filter.mp hc).1⟩

theorem Memory.mem_insert {m : Memory} {a : Nat} {v : Byte} {c : Host.Cell} (h : c ∈ Memory.insert m a v) :
    c = (a, v) ∨ c ∈ m := by
  induction m with
  | nil => simpa [Memory.insert] using h
  | cons d rest ih =>
    unfold Memory.insert at h
    split at h
    · simpa using h
    · split at h
      · rcases List.mem_cons.mp h with h | h <;> simp [h]
      · rcases List.mem_cons.mp h with h | h
        · simp [h]
        · rcases ih h with h | h <;> simp [h]

theorem Memory.wf_insert {m : Memory} (h : Memory.wf m) {a : Nat} {v : Byte} (ha : a < memSize)
    (hv : v ≠ Memory.unlisted a) : Memory.wf (Memory.insert m a v) := by
  refine ⟨?_, fun c hc => ?_⟩
  · obtain ⟨hp, -⟩ := h
    induction m with
    | nil => simp [Memory.insert]
    | cons d rest ih =>
      obtain ⟨hd, hr⟩ := List.pairwise_cons.mp hp
      unfold Memory.insert
      split
      · refine List.pairwise_cons.mpr ⟨fun c hc => ?_, hp⟩
        rcases List.mem_cons.mp hc with rfl | hc
        · assumption
        · have := hd c hc
          simp only
          omega
      · split
        · rename_i h2
          exact List.pairwise_cons.mpr ⟨fun c hc => by simpa [h2] using hd c hc, hr⟩
        · refine List.pairwise_cons.mpr ⟨fun c hc => ?_, ih hr⟩
          rcases Memory.mem_insert hc with rfl | hc
          · simp only
            omega
          · exact hd c hc
  · rcases Memory.mem_insert hc with rfl | hc
    · exact ⟨ha, hv⟩
    · exact h.2 c hc

/-- A write keeps the canonical form. -/
theorem Memory.wf_write {m : Memory} (h : Memory.wf m) (a : Nat) (v : Byte) : Memory.wf (Memory.write m a v) := by
  unfold Memory.write
  split
  · split
    · exact Memory.wf_erase h a
    · exact Memory.wf_insert h ‹_› ‹_›
  · exact h

/-- The write of a list of bytes keeps the canonical form. -/
theorem Memory.wf_writeBytes (l : List Byte) {m : Memory} (h : Memory.wf m) (a : Nat) :
    Memory.wf (Memory.writeBytes m a l) := by
  induction l generalizing m a with
  | nil => exact h
  | cons v rest ih => exact ih (Memory.wf_write h a v) (a + 1)

/-- No address below every listed one is listed. -/
theorem Memory.read_of_lt {m : Memory} {a : Nat} (h : ∀ c ∈ m, a < c.1) : Memory.read m a = Memory.unlisted a := by
  induction m with
  | nil => rfl
  | cons c rest ih =>
    have hc := h c (by simp)
    rw [Memory.read, if_neg (by omega), ih fun d hd => h d (by simp [hd])]

/-- Canonical memories that read alike at every address are the same list. -/
theorem Memory.ext_of_read {m m' : Memory} (h : Memory.wf m) (h' : Memory.wf m')
    (hr : ∀ a, Memory.read m a = Memory.read m' a) : m = m' := by
  have first : ∀ {c : Host.Cell} {l n : Memory}, Memory.wf (c :: l) → (∀ d ∈ n, c.1 < d.1) →
      Memory.read (c :: l) c.1 ≠ Memory.read n c.1 := by
    intro c l n hw hn
    rw [Memory.read_of_lt hn]
    simpa [Memory.read] using (hw.2 c (by simp)).2
  induction m generalizing m' with
  | nil =>
    cases m' with
    | nil => rfl
    | cons d rest => exact absurd (hr d.1).symm (first h' (by simp))
  | cons c rest ih =>
    cases m' with
    | nil => exact absurd (hr c.1) (first h (by simp))
    | cons d rest' =>
      have tail : ∀ {e : Host.Cell} {l : Memory}, Memory.wf (e :: l) → Memory.wf l := fun hw =>
        ⟨(List.pairwise_cons.mp hw.1).2, fun x hx => hw.2 x (by simp [hx])⟩
      have hlt := (List.pairwise_cons.mp h.1).1
      have hlt' := (List.pairwise_cons.mp h'.1).1
      have hcd : c.1 = d.1 := by
        rcases Nat.lt_trichotomy c.1 d.1 with hl | he | hl
        · refine absurd (hr c.1) (first h fun x hx => ?_)
          rcases List.mem_cons.mp hx with rfl | hx
          · exact hl
          · exact Nat.lt_trans hl (hlt' x hx)
        · exact he
        · refine absurd (hr d.1).symm (first h' fun x hx => ?_)
          rcases List.mem_cons.mp hx with rfl | hx
          · exact hl
          · exact Nat.lt_trans hl (hlt x hx)
      have hv : c.2 = d.2 := by simpa [Memory.read, hcd] using hr c.1
      have hrest : rest = rest' := by
        refine ih (tail h) (tail h') fun a => ?_
        by_cases ha : a ≤ c.1
        · rw [Memory.read_of_lt fun x hx => Nat.lt_of_le_of_lt ha (hlt x hx),
            Memory.read_of_lt fun x hx => Nat.lt_of_le_of_lt (hcd ▸ ha) (hlt' x hx)]
        · have := hr a
          rwa [Memory.read, if_neg (by omega), Memory.read, if_neg (by omega)] at this
      rw [hrest, Prod.ext hcd hv]

theorem Memory.length_readBytes (m : Memory) (a n : Nat) : (Memory.readBytes m a n).length = n := by
  simp [Memory.readBytes]

theorem Memory.getD_readBytes (m : Memory) (a n k : Nat) (h : k < n) :
    (Memory.readBytes m a n).getD k 0 = Memory.read m (a + k) := by
  simp [Memory.readBytes, h]

/-- The font lies below 0x50, and every other unlisted byte is 0 (R39, R49). -/
theorem Memory.unlisted_of_le {a : Nat} (h : 80 ≤ a) : Memory.unlisted a = 0 := by
  have : fontBytes.length = 80 := by decide
  simp [Memory.unlisted, fontBase, List.getD_eq_getElem?_getD, List.getElem?_eq_none (this ▸ h)]

theorem Memory.unlisted_font {a : Nat} : Memory.unlisted a = fontBytes.getD a 0 := by
  simp [Memory.unlisted, fontBase]

end Sys2Proof.Machine
end

