-- ==== Sys2Proof/Laws/Screen.lean ====
section
/-! SUPPORT. The laws of the display and the compositor (spec/46_display.md R114 to R119): what one inverted pixel, one sprite
row and the rows of a sprite do to every pixel and to the collision. -/

namespace Sys2Proof.Machine

@[simp] theorem Display.pixel_clear (x : Fin 64) (y : Fin 32) : Display.pixel Display.clear x y = false := by
  simp [Display.pixel, Display.clear]

/-- Inverting a pixel changes that pixel and no other (R114). -/
theorem Display.pixel_flip (d : Display) (x px : Fin 64) (y py : Fin 32) :
    Display.pixel (Display.flip d x y) px py =
      if px = x ∧ py = y then !Display.pixel d px py else Display.pixel d px py := by
  unfold Display.pixel Display.flip
  by_cases hy : py = y
  · subst hy
    by_cases hx : px = x
    · subst hx
      simp
    · have : px.val ≠ x.val := fun h => hx (Fin.ext h)
      have h2 : ¬ (px.val - x.val = 0 ∧ x.val ≤ px.val) := by omega
      by_cases hlt : px.val < x.val
      · simp [hx, hlt]
      · simp [hx, hlt, show px.val - x.val ≠ 0 by omega]
  · have : y.val ≠ py.val := fun h => hy (Fin.ext h).symm
    simp [hy, this]

/-- Two displays with the same pixels are the same display. -/
theorem Display.ext_of_pixel {d e : Display} (h : ∀ x y, Display.pixel d x y = Display.pixel e x y) : d = e := by
  refine Vector.ext fun y hy => BitVec.eq_of_getLsbD_eq fun x hx => ?_
  exact h ⟨x, hx⟩ ⟨y, hy⟩

/-- One sprite bit: the pixel is XORed with it, and it collides when both are 1 (R114, R117). -/
theorem pixel_drawPixel (x px : Fin 64) (y py : Fin 32) (bit : Bool) (c : Canvas) :
    Display.pixel (drawPixel x y bit c).1 px py =
      if px = x ∧ py = y ∧ bit = true then !Display.pixel c.1 px py else Display.pixel c.1 px py := by
  cases bit <;> simp [drawPixel, Display.pixel_flip]

theorem collide_drawPixel (x : Fin 64) (y : Fin 32) (bit : Bool) (c : Canvas) :
    (drawPixel x y bit c).2 = (c.2 || (bit && Display.pixel c.1 x y)) := by
  cases bit <;> simp [drawPixel]

/-- The sprite byte `row`, drawn at column `x0`, has a set bit on column `px` among its first `n` columns. -/
def rowCovers (x0 : Nat) (row : Byte) (n : Nat) (px : Fin 64) : Prop :=
  ∃ col < n, px.val = (x0 + col) % 64 ∧ row.getLsbD (7 - col) = true

/-- The first `n` columns of a row (R118, R119). They lie on different pixels, so each pixel is inverted at most once. -/
theorem foldl_drawPixel (x0 : Nat) (y : Fin 32) (row : Byte) (c : Canvas) (n : Nat) (hn : n ≤ 8) :
    (∀ px py, Display.pixel ((List.range n).foldl (fun acc col =>
        drawPixel (Fin.ofNat 64 (x0 + col)) y (row.getLsbD (7 - col)) acc) c).1 px py =
      (Display.pixel c.1 px py ^^ (decide (py = y) && open Classical in decide (rowCovers x0 row n px)))) ∧
    (((List.range n).foldl (fun acc col =>
        drawPixel (Fin.ofNat 64 (x0 + col)) y (row.getLsbD (7 - col)) acc) c).2 = true ↔
      c.2 = true ∨ ∃ px, rowCovers x0 row n px ∧ Display.pixel c.1 px y = true) := by
  classical
  induction n with
  | zero => simp [rowCovers]
  | succ n ih =>
    obtain ⟨ih1, ih2⟩ := ih (by omega)
    have hlast : ∀ px : Fin 64, rowCovers x0 row (n + 1) px ↔
        rowCovers x0 row n px ∨ (px = Fin.ofNat 64 (x0 + n) ∧ row.getLsbD (7 - n) = true) := by
      intro px
      simp only [rowCovers, Fin.ext_iff, Fin.val_ofNat, Nat.lt_succ_iff_lt_or_eq]
      constructor
      · rintro ⟨col, hc | rfl, h⟩
        · exact .inl ⟨col, hc, h⟩
        · exact .inr h
      · rintro (⟨col, hc, h⟩ | h)
        · exact ⟨col, .inl hc, h⟩
        · exact ⟨n, .inr rfl, h⟩
    have hnew : ¬ rowCovers x0 row n (Fin.ofNat 64 (x0 + n)) := by
      rintro ⟨col, hc, h, -⟩
      simp only [Fin.val_ofNat] at h
      omega
    rw [List.range_succ, List.foldl_append]
    simp only [List.foldl_cons, List.foldl_nil]
    refine ⟨fun px py => ?_, ?_⟩
    · rw [pixel_drawPixel, ih1]
      by_cases hpy : py = y
      · by_cases hpx : px = Fin.ofNat 64 (x0 + n)
        · subst hpx
          cases hb : row.getLsbD (7 - n) <;> simp [-Fin.ofNat_eq_cast, hpy, hlast, hnew, hb]
        · simp [-Fin.ofNat_eq_cast, hpy, hpx, hlast]
      · simp [hpy]
    · rw [collide_drawPixel, Bool.or_eq_true, ih2, Bool.and_eq_true, ih1]
      simp only [hlast, hnew, decide_true, decide_false, Bool.and_false, Bool.xor_false]
      constructor
      · rintro ((h | ⟨px, h1, h2⟩) | ⟨hb, hp⟩)
        · exact .inl h
        · exact .inr ⟨px, .inl h1, h2⟩
        · exact .inr ⟨_, .inr ⟨rfl, hb⟩, hp⟩
      · rintro (h | ⟨px, h1 | ⟨rfl, hb⟩, h2⟩)
        · exact .inl (.inl h)
        · exact .inl (.inr ⟨px, h1, h2⟩)
        · exact .inr ⟨hb, h2⟩

/-- One sprite row: the pixels of its set bits in row `y` are inverted, and it collides when one of them was set. -/
theorem drawRow_spec (x0 : Nat) (y : Fin 32) (row : Byte) (c : Canvas) :
    (∀ px py, Display.pixel (drawRow x0 y row c).1 px py =
      (Display.pixel c.1 px py ^^ (decide (py = y) && open Classical in decide (rowCovers x0 row 8 px)))) ∧
    ((drawRow x0 y row c).2 = true ↔
      c.2 = true ∨ ∃ px, rowCovers x0 row 8 px ∧ Display.pixel c.1 px y = true) :=
  foldl_drawPixel x0 y row c 8 (Nat.le_refl 8)

/-- The sprite rows `rows`, drawn from row `y0` on at column `x0`, have a set bit on pixel (px, py). -/
def rowsCover (x0 y0 : Nat) (rows : List Byte) (px : Fin 64) (py : Fin 32) : Prop :=
  ∃ r < rows.length, py.val = (y0 + r) % 32 ∧ rowCovers x0 (rows.getD r 0) 8 px

/-- The rows of a sprite, at most 31 of them so that no pixel is under two of them: exactly the pixels of the set bits are
inverted, and the draw collides exactly when one of them was set (R116 to R119). -/
theorem drawRows_spec (x0 : Nat) (rows : List Byte) (y0 : Nat) (c : Canvas) (hr : rows.length < 32) :
    (∀ px py, Display.pixel (drawRows x0 y0 rows c).1 px py =
      (Display.pixel c.1 px py ^^ open Classical in decide (rowsCover x0 y0 rows px py))) ∧
    ((drawRows x0 y0 rows c).2 = true ↔
      c.2 = true ∨ ∃ px py, rowsCover x0 y0 rows px py ∧ Display.pixel c.1 px py = true) := by
  classical
  induction rows generalizing y0 c with
  | nil => simp [drawRows, rowsCover]
  | cons row rest ih =>
    simp only [List.length_cons] at hr
    obtain ⟨ih1, ih2⟩ := ih (y0 + 1) (drawRow x0 (Fin.ofNat 32 y0) row c) (by omega)
    obtain ⟨hr1, hr2⟩ := drawRow_spec x0 (Fin.ofNat 32 y0) row c
    have hsplit : ∀ px py, rowsCover x0 y0 (row :: rest) px py ↔
        (py = Fin.ofNat 32 y0 ∧ rowCovers x0 row 8 px) ∨ rowsCover x0 (y0 + 1) rest px py := by
      intro px py
      simp only [rowsCover, List.length_cons, Fin.ext_iff, Fin.val_ofNat]
      constructor
      · rintro ⟨r, hlt, hp, hc⟩
        cases r with
        | zero => exact .inl ⟨by simpa using hp, by simpa using hc⟩
        | succ r => exact .inr ⟨r, by omega, by rw [hp]; congr 1; omega, by simpa using hc⟩
      · rintro (⟨hp, hc⟩ | ⟨r, hlt, hp, hc⟩)
        · exact ⟨0, by omega, by simpa using hp, by simpa using hc⟩
        · exact ⟨r + 1, by omega, by rw [hp]; congr 1; omega, by simpa using hc⟩
    have hnew : ∀ px, ¬ rowsCover x0 (y0 + 1) rest px (Fin.ofNat 32 y0) := by
      rintro px ⟨r, hlt, hp, -⟩
      simp only [Fin.val_ofNat] at hp
      omega
    rw [drawRows]
    refine ⟨fun px py => ?_, ?_⟩
    · rw [ih1, hr1]
      by_cases hpy : py = Fin.ofNat 32 y0
      · subst hpy
        simp [-Fin.ofNat_eq_cast, hsplit, hnew]
      · simp [-Fin.ofNat_eq_cast, hsplit, hpy]
    · rw [ih2, hr2]
      constructor
      · rintro ((h | ⟨px, h1, h2⟩) | ⟨px, py, h1, h2⟩)
        · exact .inl h
        · exact .inr ⟨px, _, (hsplit _ _).mpr (.inl ⟨rfl, h1⟩), h2⟩
        · have hpy : py ≠ Fin.ofNat 32 y0 := fun he => hnew px (he ▸ h1)
          rw [hr1] at h2
          exact .inr ⟨px, py, (hsplit _ _).mpr (.inr h1), by simpa [-Fin.ofNat_eq_cast, hpy] using h2⟩
      · rintro (h | ⟨px, py, h1, h2⟩)
        · exact .inl (.inl h)
        · rcases (hsplit _ _).mp h1 with ⟨rfl, hc⟩ | hc
          · exact .inl (.inr ⟨px, hc, h2⟩)
          · have hpy : py ≠ Fin.ofNat 32 y0 := fun he => hnew px (he ▸ hc)
            exact .inr ⟨px, py, hc, by rw [hr1]; simpa [-Fin.ofNat_eq_cast, hpy] using h2⟩

end Sys2Proof.Machine
end

