-- ==== Sys2Proof/Laws/State.lean ====
section
/-! SUPPORT. The small lemmas of the state: one for each field and each update, true by rfl, and what reading a general
register gives after each update. No later proof unfolds a record update. -/

namespace Sys2Proof.Machine

variable (s : State)

@[simp] theorem State.mem_setReg (x : Reg) (b : Byte) : (s.setReg x b).mem = s.mem := rfl
@[simp] theorem State.i_setReg (x : Reg) (b : Byte) : (s.setReg x b).i = s.i := rfl
@[simp] theorem State.pc_setReg (x : Reg) (b : Byte) : (s.setReg x b).pc = s.pc := rfl
@[simp] theorem State.stack_setReg (x : Reg) (b : Byte) : (s.setReg x b).stack = s.stack := rfl
@[simp] theorem State.dt_setReg (x : Reg) (b : Byte) : (s.setReg x b).dt = s.dt := rfl
@[simp] theorem State.st_setReg (x : Reg) (b : Byte) : (s.setReg x b).st = s.st := rfl
@[simp] theorem State.disp_setReg (x : Reg) (b : Byte) : (s.setReg x b).disp = s.disp := rfl
@[simp] theorem State.fault_setReg (x : Reg) (b : Byte) : (s.setReg x b).fault = s.fault := rfl
@[simp] theorem State.draws_setReg (x : Reg) (b : Byte) : (s.setReg x b).draws = s.draws := rfl
@[simp] theorem State.keys_setReg (x : Reg) (b : Byte) : (s.setReg x b).keys = s.keys := rfl
@[simp] theorem State.turns_setReg (x : Reg) (b : Byte) : (s.setReg x b).turns = s.turns := rfl
@[simp] theorem State.inbox_setReg (x : Reg) (b : Byte) : (s.setReg x b).inbox = s.inbox := rfl
@[simp] theorem State.reply_setReg (x : Reg) (b : Byte) : (s.setReg x b).reply = s.reply := rfl

@[simp] theorem State.mem_setRegs (w : Vector Byte 16) : (s.setRegs w).mem = s.mem := rfl
@[simp] theorem State.v_setRegs (w : Vector Byte 16) : (s.setRegs w).v = w := rfl
@[simp] theorem State.i_setRegs (w : Vector Byte 16) : (s.setRegs w).i = s.i := rfl
@[simp] theorem State.pc_setRegs (w : Vector Byte 16) : (s.setRegs w).pc = s.pc := rfl
@[simp] theorem State.stack_setRegs (w : Vector Byte 16) : (s.setRegs w).stack = s.stack := rfl
@[simp] theorem State.dt_setRegs (w : Vector Byte 16) : (s.setRegs w).dt = s.dt := rfl
@[simp] theorem State.st_setRegs (w : Vector Byte 16) : (s.setRegs w).st = s.st := rfl
@[simp] theorem State.disp_setRegs (w : Vector Byte 16) : (s.setRegs w).disp = s.disp := rfl
@[simp] theorem State.fault_setRegs (w : Vector Byte 16) : (s.setRegs w).fault = s.fault := rfl
@[simp] theorem State.draws_setRegs (w : Vector Byte 16) : (s.setRegs w).draws = s.draws := rfl
@[simp] theorem State.keys_setRegs (w : Vector Byte 16) : (s.setRegs w).keys = s.keys := rfl
@[simp] theorem State.turns_setRegs (w : Vector Byte 16) : (s.setRegs w).turns = s.turns := rfl
@[simp] theorem State.inbox_setRegs (w : Vector Byte 16) : (s.setRegs w).inbox = s.inbox := rfl
@[simp] theorem State.reply_setRegs (w : Vector Byte 16) : (s.setRegs w).reply = s.reply := rfl

@[simp] theorem State.mem_setMem (m : Memory) : (s.setMem m).mem = m := rfl
@[simp] theorem State.v_setMem (m : Memory) : (s.setMem m).v = s.v := rfl
@[simp] theorem State.i_setMem (m : Memory) : (s.setMem m).i = s.i := rfl
@[simp] theorem State.pc_setMem (m : Memory) : (s.setMem m).pc = s.pc := rfl
@[simp] theorem State.stack_setMem (m : Memory) : (s.setMem m).stack = s.stack := rfl
@[simp] theorem State.dt_setMem (m : Memory) : (s.setMem m).dt = s.dt := rfl
@[simp] theorem State.st_setMem (m : Memory) : (s.setMem m).st = s.st := rfl
@[simp] theorem State.disp_setMem (m : Memory) : (s.setMem m).disp = s.disp := rfl
@[simp] theorem State.fault_setMem (m : Memory) : (s.setMem m).fault = s.fault := rfl
@[simp] theorem State.draws_setMem (m : Memory) : (s.setMem m).draws = s.draws := rfl
@[simp] theorem State.keys_setMem (m : Memory) : (s.setMem m).keys = s.keys := rfl
@[simp] theorem State.turns_setMem (m : Memory) : (s.setMem m).turns = s.turns := rfl
@[simp] theorem State.inbox_setMem (m : Memory) : (s.setMem m).inbox = s.inbox := rfl
@[simp] theorem State.reply_setMem (m : Memory) : (s.setMem m).reply = s.reply := rfl
@[simp] theorem State.reg_setMem (m : Memory) (r : Reg) : (s.setMem m).reg r = s.reg r := rfl

@[simp] theorem State.mem_setI (w : Word) : (s.setI w).mem = s.mem := rfl
@[simp] theorem State.v_setI (w : Word) : (s.setI w).v = s.v := rfl
@[simp] theorem State.i_setI (w : Word) : (s.setI w).i = w := rfl
@[simp] theorem State.pc_setI (w : Word) : (s.setI w).pc = s.pc := rfl
@[simp] theorem State.stack_setI (w : Word) : (s.setI w).stack = s.stack := rfl
@[simp] theorem State.dt_setI (w : Word) : (s.setI w).dt = s.dt := rfl
@[simp] theorem State.st_setI (w : Word) : (s.setI w).st = s.st := rfl
@[simp] theorem State.disp_setI (w : Word) : (s.setI w).disp = s.disp := rfl
@[simp] theorem State.fault_setI (w : Word) : (s.setI w).fault = s.fault := rfl
@[simp] theorem State.draws_setI (w : Word) : (s.setI w).draws = s.draws := rfl
@[simp] theorem State.keys_setI (w : Word) : (s.setI w).keys = s.keys := rfl
@[simp] theorem State.turns_setI (w : Word) : (s.setI w).turns = s.turns := rfl
@[simp] theorem State.inbox_setI (w : Word) : (s.setI w).inbox = s.inbox := rfl
@[simp] theorem State.reply_setI (w : Word) : (s.setI w).reply = s.reply := rfl
@[simp] theorem State.reg_setI (w : Word) (r : Reg) : (s.setI w).reg r = s.reg r := rfl

@[simp] theorem State.mem_setPc (w : Word) : (s.setPc w).mem = s.mem := rfl
@[simp] theorem State.v_setPc (w : Word) : (s.setPc w).v = s.v := rfl
@[simp] theorem State.i_setPc (w : Word) : (s.setPc w).i = s.i := rfl
@[simp] theorem State.pc_setPc (w : Word) : (s.setPc w).pc = w := rfl
@[simp] theorem State.stack_setPc (w : Word) : (s.setPc w).stack = s.stack := rfl
@[simp] theorem State.dt_setPc (w : Word) : (s.setPc w).dt = s.dt := rfl
@[simp] theorem State.st_setPc (w : Word) : (s.setPc w).st = s.st := rfl
@[simp] theorem State.disp_setPc (w : Word) : (s.setPc w).disp = s.disp := rfl
@[simp] theorem State.fault_setPc (w : Word) : (s.setPc w).fault = s.fault := rfl
@[simp] theorem State.draws_setPc (w : Word) : (s.setPc w).draws = s.draws := rfl
@[simp] theorem State.keys_setPc (w : Word) : (s.setPc w).keys = s.keys := rfl
@[simp] theorem State.turns_setPc (w : Word) : (s.setPc w).turns = s.turns := rfl
@[simp] theorem State.inbox_setPc (w : Word) : (s.setPc w).inbox = s.inbox := rfl
@[simp] theorem State.reply_setPc (w : Word) : (s.setPc w).reply = s.reply := rfl
@[simp] theorem State.reg_setPc (w : Word) (r : Reg) : (s.setPc w).reg r = s.reg r := rfl

@[simp] theorem State.mem_setStack (l : List Word) : (s.setStack l).mem = s.mem := rfl
@[simp] theorem State.v_setStack (l : List Word) : (s.setStack l).v = s.v := rfl
@[simp] theorem State.i_setStack (l : List Word) : (s.setStack l).i = s.i := rfl
@[simp] theorem State.pc_setStack (l : List Word) : (s.setStack l).pc = s.pc := rfl
@[simp] theorem State.stack_setStack (l : List Word) : (s.setStack l).stack = l := rfl
@[simp] theorem State.dt_setStack (l : List Word) : (s.setStack l).dt = s.dt := rfl
@[simp] theorem State.st_setStack (l : List Word) : (s.setStack l).st = s.st := rfl
@[simp] theorem State.disp_setStack (l : List Word) : (s.setStack l).disp = s.disp := rfl
@[simp] theorem State.fault_setStack (l : List Word) : (s.setStack l).fault = s.fault := rfl
@[simp] theorem State.draws_setStack (l : List Word) : (s.setStack l).draws = s.draws := rfl
@[simp] theorem State.keys_setStack (l : List Word) : (s.setStack l).keys = s.keys := rfl
@[simp] theorem State.turns_setStack (l : List Word) : (s.setStack l).turns = s.turns := rfl
@[simp] theorem State.inbox_setStack (l : List Word) : (s.setStack l).inbox = s.inbox := rfl
@[simp] theorem State.reply_setStack (l : List Word) : (s.setStack l).reply = s.reply := rfl
@[simp] theorem State.reg_setStack (l : List Word) (r : Reg) : (s.setStack l).reg r = s.reg r := rfl

@[simp] theorem State.mem_setDt (b : Byte) : (s.setDt b).mem = s.mem := rfl
@[simp] theorem State.v_setDt (b : Byte) : (s.setDt b).v = s.v := rfl
@[simp] theorem State.i_setDt (b : Byte) : (s.setDt b).i = s.i := rfl
@[simp] theorem State.pc_setDt (b : Byte) : (s.setDt b).pc = s.pc := rfl
@[simp] theorem State.stack_setDt (b : Byte) : (s.setDt b).stack = s.stack := rfl
@[simp] theorem State.dt_setDt (b : Byte) : (s.setDt b).dt = b := rfl
@[simp] theorem State.st_setDt (b : Byte) : (s.setDt b).st = s.st := rfl
@[simp] theorem State.disp_setDt (b : Byte) : (s.setDt b).disp = s.disp := rfl
@[simp] theorem State.fault_setDt (b : Byte) : (s.setDt b).fault = s.fault := rfl
@[simp] theorem State.draws_setDt (b : Byte) : (s.setDt b).draws = s.draws := rfl
@[simp] theorem State.keys_setDt (b : Byte) : (s.setDt b).keys = s.keys := rfl
@[simp] theorem State.turns_setDt (b : Byte) : (s.setDt b).turns = s.turns := rfl
@[simp] theorem State.inbox_setDt (b : Byte) : (s.setDt b).inbox = s.inbox := rfl
@[simp] theorem State.reply_setDt (b : Byte) : (s.setDt b).reply = s.reply := rfl
@[simp] theorem State.reg_setDt (b : Byte) (r : Reg) : (s.setDt b).reg r = s.reg r := rfl

@[simp] theorem State.mem_setSt (b : Byte) : (s.setSt b).mem = s.mem := rfl
@[simp] theorem State.v_setSt (b : Byte) : (s.setSt b).v = s.v := rfl
@[simp] theorem State.i_setSt (b : Byte) : (s.setSt b).i = s.i := rfl
@[simp] theorem State.pc_setSt (b : Byte) : (s.setSt b).pc = s.pc := rfl
@[simp] theorem State.stack_setSt (b : Byte) : (s.setSt b).stack = s.stack := rfl
@[simp] theorem State.dt_setSt (b : Byte) : (s.setSt b).dt = s.dt := rfl
@[simp] theorem State.st_setSt (b : Byte) : (s.setSt b).st = b := rfl
@[simp] theorem State.disp_setSt (b : Byte) : (s.setSt b).disp = s.disp := rfl
@[simp] theorem State.fault_setSt (b : Byte) : (s.setSt b).fault = s.fault := rfl
@[simp] theorem State.draws_setSt (b : Byte) : (s.setSt b).draws = s.draws := rfl
@[simp] theorem State.keys_setSt (b : Byte) : (s.setSt b).keys = s.keys := rfl
@[simp] theorem State.turns_setSt (b : Byte) : (s.setSt b).turns = s.turns := rfl
@[simp] theorem State.inbox_setSt (b : Byte) : (s.setSt b).inbox = s.inbox := rfl
@[simp] theorem State.reply_setSt (b : Byte) : (s.setSt b).reply = s.reply := rfl
@[simp] theorem State.reg_setSt (b : Byte) (r : Reg) : (s.setSt b).reg r = s.reg r := rfl

@[simp] theorem State.mem_setDisp (d : Display) : (s.setDisp d).mem = s.mem := rfl
@[simp] theorem State.v_setDisp (d : Display) : (s.setDisp d).v = s.v := rfl
@[simp] theorem State.i_setDisp (d : Display) : (s.setDisp d).i = s.i := rfl
@[simp] theorem State.pc_setDisp (d : Display) : (s.setDisp d).pc = s.pc := rfl
@[simp] theorem State.stack_setDisp (d : Display) : (s.setDisp d).stack = s.stack := rfl
@[simp] theorem State.dt_setDisp (d : Display) : (s.setDisp d).dt = s.dt := rfl
@[simp] theorem State.st_setDisp (d : Display) : (s.setDisp d).st = s.st := rfl
@[simp] theorem State.disp_setDisp (d : Display) : (s.setDisp d).disp = d := rfl
@[simp] theorem State.fault_setDisp (d : Display) : (s.setDisp d).fault = s.fault := rfl
@[simp] theorem State.draws_setDisp (d : Display) : (s.setDisp d).draws = s.draws := rfl
@[simp] theorem State.keys_setDisp (d : Display) : (s.setDisp d).keys = s.keys := rfl
@[simp] theorem State.turns_setDisp (d : Display) : (s.setDisp d).turns = s.turns := rfl
@[simp] theorem State.inbox_setDisp (d : Display) : (s.setDisp d).inbox = s.inbox := rfl
@[simp] theorem State.reply_setDisp (d : Display) : (s.setDisp d).reply = s.reply := rfl
@[simp] theorem State.reg_setDisp (d : Display) (r : Reg) : (s.setDisp d).reg r = s.reg r := rfl

@[simp] theorem State.mem_setFault (f : Option Fault) : (s.setFault f).mem = s.mem := rfl
@[simp] theorem State.v_setFault (f : Option Fault) : (s.setFault f).v = s.v := rfl
@[simp] theorem State.i_setFault (f : Option Fault) : (s.setFault f).i = s.i := rfl
@[simp] theorem State.pc_setFault (f : Option Fault) : (s.setFault f).pc = s.pc := rfl
@[simp] theorem State.stack_setFault (f : Option Fault) : (s.setFault f).stack = s.stack := rfl
@[simp] theorem State.dt_setFault (f : Option Fault) : (s.setFault f).dt = s.dt := rfl
@[simp] theorem State.st_setFault (f : Option Fault) : (s.setFault f).st = s.st := rfl
@[simp] theorem State.disp_setFault (f : Option Fault) : (s.setFault f).disp = s.disp := rfl
@[simp] theorem State.fault_setFault (f : Option Fault) : (s.setFault f).fault = f := rfl
@[simp] theorem State.draws_setFault (f : Option Fault) : (s.setFault f).draws = s.draws := rfl
@[simp] theorem State.keys_setFault (f : Option Fault) : (s.setFault f).keys = s.keys := rfl
@[simp] theorem State.turns_setFault (f : Option Fault) : (s.setFault f).turns = s.turns := rfl
@[simp] theorem State.inbox_setFault (f : Option Fault) : (s.setFault f).inbox = s.inbox := rfl
@[simp] theorem State.reply_setFault (f : Option Fault) : (s.setFault f).reply = s.reply := rfl
@[simp] theorem State.reg_setFault (f : Option Fault) (r : Reg) : (s.setFault f).reg r = s.reg r := rfl

@[simp] theorem State.mem_setDraws (n : Nat) : (s.setDraws n).mem = s.mem := rfl
@[simp] theorem State.v_setDraws (n : Nat) : (s.setDraws n).v = s.v := rfl
@[simp] theorem State.i_setDraws (n : Nat) : (s.setDraws n).i = s.i := rfl
@[simp] theorem State.pc_setDraws (n : Nat) : (s.setDraws n).pc = s.pc := rfl
@[simp] theorem State.stack_setDraws (n : Nat) : (s.setDraws n).stack = s.stack := rfl
@[simp] theorem State.dt_setDraws (n : Nat) : (s.setDraws n).dt = s.dt := rfl
@[simp] theorem State.st_setDraws (n : Nat) : (s.setDraws n).st = s.st := rfl
@[simp] theorem State.disp_setDraws (n : Nat) : (s.setDraws n).disp = s.disp := rfl
@[simp] theorem State.fault_setDraws (n : Nat) : (s.setDraws n).fault = s.fault := rfl
@[simp] theorem State.draws_setDraws (n : Nat) : (s.setDraws n).draws = n := rfl
@[simp] theorem State.keys_setDraws (n : Nat) : (s.setDraws n).keys = s.keys := rfl
@[simp] theorem State.turns_setDraws (n : Nat) : (s.setDraws n).turns = s.turns := rfl
@[simp] theorem State.inbox_setDraws (n : Nat) : (s.setDraws n).inbox = s.inbox := rfl
@[simp] theorem State.reply_setDraws (n : Nat) : (s.setDraws n).reply = s.reply := rfl
@[simp] theorem State.reg_setDraws (n : Nat) (r : Reg) : (s.setDraws n).reg r = s.reg r := rfl

@[simp] theorem State.mem_setKeys (k : Keys) : (s.setKeys k).mem = s.mem := rfl
@[simp] theorem State.v_setKeys (k : Keys) : (s.setKeys k).v = s.v := rfl
@[simp] theorem State.i_setKeys (k : Keys) : (s.setKeys k).i = s.i := rfl
@[simp] theorem State.pc_setKeys (k : Keys) : (s.setKeys k).pc = s.pc := rfl
@[simp] theorem State.stack_setKeys (k : Keys) : (s.setKeys k).stack = s.stack := rfl
@[simp] theorem State.dt_setKeys (k : Keys) : (s.setKeys k).dt = s.dt := rfl
@[simp] theorem State.st_setKeys (k : Keys) : (s.setKeys k).st = s.st := rfl
@[simp] theorem State.disp_setKeys (k : Keys) : (s.setKeys k).disp = s.disp := rfl
@[simp] theorem State.fault_setKeys (k : Keys) : (s.setKeys k).fault = s.fault := rfl
@[simp] theorem State.draws_setKeys (k : Keys) : (s.setKeys k).draws = s.draws := rfl
@[simp] theorem State.keys_setKeys (k : Keys) : (s.setKeys k).keys = k := rfl
@[simp] theorem State.turns_setKeys (k : Keys) : (s.setKeys k).turns = s.turns := rfl
@[simp] theorem State.inbox_setKeys (k : Keys) : (s.setKeys k).inbox = s.inbox := rfl
@[simp] theorem State.reply_setKeys (k : Keys) : (s.setKeys k).reply = s.reply := rfl
@[simp] theorem State.reg_setKeys (k : Keys) (r : Reg) : (s.setKeys k).reg r = s.reg r := rfl

@[simp] theorem State.mem_setTurns (n : Nat) : (s.setTurns n).mem = s.mem := rfl
@[simp] theorem State.v_setTurns (n : Nat) : (s.setTurns n).v = s.v := rfl
@[simp] theorem State.i_setTurns (n : Nat) : (s.setTurns n).i = s.i := rfl
@[simp] theorem State.pc_setTurns (n : Nat) : (s.setTurns n).pc = s.pc := rfl
@[simp] theorem State.stack_setTurns (n : Nat) : (s.setTurns n).stack = s.stack := rfl
@[simp] theorem State.dt_setTurns (n : Nat) : (s.setTurns n).dt = s.dt := rfl
@[simp] theorem State.st_setTurns (n : Nat) : (s.setTurns n).st = s.st := rfl
@[simp] theorem State.disp_setTurns (n : Nat) : (s.setTurns n).disp = s.disp := rfl
@[simp] theorem State.fault_setTurns (n : Nat) : (s.setTurns n).fault = s.fault := rfl
@[simp] theorem State.draws_setTurns (n : Nat) : (s.setTurns n).draws = s.draws := rfl
@[simp] theorem State.keys_setTurns (n : Nat) : (s.setTurns n).keys = s.keys := rfl
@[simp] theorem State.turns_setTurns (n : Nat) : (s.setTurns n).turns = n := rfl
@[simp] theorem State.inbox_setTurns (n : Nat) : (s.setTurns n).inbox = s.inbox := rfl
@[simp] theorem State.reply_setTurns (n : Nat) : (s.setTurns n).reply = s.reply := rfl
@[simp] theorem State.reg_setTurns (n : Nat) (r : Reg) : (s.setTurns n).reg r = s.reg r := rfl

@[simp] theorem State.mem_setInbox (l : List HostCall) : (s.setInbox l).mem = s.mem := rfl
@[simp] theorem State.v_setInbox (l : List HostCall) : (s.setInbox l).v = s.v := rfl
@[simp] theorem State.i_setInbox (l : List HostCall) : (s.setInbox l).i = s.i := rfl
@[simp] theorem State.pc_setInbox (l : List HostCall) : (s.setInbox l).pc = s.pc := rfl
@[simp] theorem State.stack_setInbox (l : List HostCall) : (s.setInbox l).stack = s.stack := rfl
@[simp] theorem State.dt_setInbox (l : List HostCall) : (s.setInbox l).dt = s.dt := rfl
@[simp] theorem State.st_setInbox (l : List HostCall) : (s.setInbox l).st = s.st := rfl
@[simp] theorem State.disp_setInbox (l : List HostCall) : (s.setInbox l).disp = s.disp := rfl
@[simp] theorem State.fault_setInbox (l : List HostCall) : (s.setInbox l).fault = s.fault := rfl
@[simp] theorem State.draws_setInbox (l : List HostCall) : (s.setInbox l).draws = s.draws := rfl
@[simp] theorem State.keys_setInbox (l : List HostCall) : (s.setInbox l).keys = s.keys := rfl
@[simp] theorem State.turns_setInbox (l : List HostCall) : (s.setInbox l).turns = s.turns := rfl
@[simp] theorem State.inbox_setInbox (l : List HostCall) : (s.setInbox l).inbox = l := rfl
@[simp] theorem State.reply_setInbox (l : List HostCall) : (s.setInbox l).reply = s.reply := rfl
@[simp] theorem State.reg_setInbox (l : List HostCall) (r : Reg) : (s.setInbox l).reg r = s.reg r := rfl

@[simp] theorem State.mem_setReply (r : Option Reply) : (s.setReply r).mem = s.mem := rfl
@[simp] theorem State.v_setReply (r : Option Reply) : (s.setReply r).v = s.v := rfl
@[simp] theorem State.i_setReply (r : Option Reply) : (s.setReply r).i = s.i := rfl
@[simp] theorem State.pc_setReply (r : Option Reply) : (s.setReply r).pc = s.pc := rfl
@[simp] theorem State.stack_setReply (r : Option Reply) : (s.setReply r).stack = s.stack := rfl
@[simp] theorem State.dt_setReply (r : Option Reply) : (s.setReply r).dt = s.dt := rfl
@[simp] theorem State.st_setReply (r : Option Reply) : (s.setReply r).st = s.st := rfl
@[simp] theorem State.disp_setReply (r : Option Reply) : (s.setReply r).disp = s.disp := rfl
@[simp] theorem State.fault_setReply (r : Option Reply) : (s.setReply r).fault = s.fault := rfl
@[simp] theorem State.draws_setReply (r : Option Reply) : (s.setReply r).draws = s.draws := rfl
@[simp] theorem State.keys_setReply (r : Option Reply) : (s.setReply r).keys = s.keys := rfl
@[simp] theorem State.turns_setReply (r : Option Reply) : (s.setReply r).turns = s.turns := rfl
@[simp] theorem State.inbox_setReply (r : Option Reply) : (s.setReply r).inbox = s.inbox := rfl
@[simp] theorem State.reply_setReply (r : Option Reply) : (s.setReply r).reply = r := rfl
@[simp] theorem State.reg_setReply (a : Option Reply) (r : Reg) : (s.setReply a).reg r = s.reg r := rfl

@[simp] theorem State.mem_releaseKeys : (s.releaseKeys).mem = s.mem := rfl
@[simp] theorem State.v_releaseKeys : (s.releaseKeys).v = s.v := rfl
@[simp] theorem State.i_releaseKeys : (s.releaseKeys).i = s.i := rfl
@[simp] theorem State.pc_releaseKeys : (s.releaseKeys).pc = s.pc := rfl
@[simp] theorem State.stack_releaseKeys : (s.releaseKeys).stack = s.stack := rfl
@[simp] theorem State.dt_releaseKeys : (s.releaseKeys).dt = s.dt := rfl
@[simp] theorem State.st_releaseKeys : (s.releaseKeys).st = s.st := rfl
@[simp] theorem State.disp_releaseKeys : (s.releaseKeys).disp = s.disp := rfl
@[simp] theorem State.fault_releaseKeys : (s.releaseKeys).fault = s.fault := rfl
@[simp] theorem State.draws_releaseKeys : (s.releaseKeys).draws = s.draws := rfl
@[simp] theorem State.keys_releaseKeys : (s.releaseKeys).keys = 0 := rfl
@[simp] theorem State.turns_releaseKeys : (s.releaseKeys).turns = s.turns := rfl
@[simp] theorem State.inbox_releaseKeys : (s.releaseKeys).inbox = s.inbox := rfl
@[simp] theorem State.reply_releaseKeys : (s.releaseKeys).reply = s.reply := rfl
@[simp] theorem State.reg_releaseKeys (r : Reg) : (s.releaseKeys).reg r = s.reg r := rfl

@[simp] theorem State.mem_advance : (s.advance).mem = s.mem := rfl
@[simp] theorem State.v_advance : (s.advance).v = s.v := rfl
@[simp] theorem State.i_advance : (s.advance).i = s.i := rfl
@[simp] theorem State.pc_advance : (s.advance).pc = s.pc + 2 := rfl
@[simp] theorem State.stack_advance : (s.advance).stack = s.stack := rfl
@[simp] theorem State.dt_advance : (s.advance).dt = s.dt := rfl
@[simp] theorem State.st_advance : (s.advance).st = s.st := rfl
@[simp] theorem State.disp_advance : (s.advance).disp = s.disp := rfl
@[simp] theorem State.fault_advance : (s.advance).fault = s.fault := rfl
@[simp] theorem State.draws_advance : (s.advance).draws = s.draws := rfl
@[simp] theorem State.keys_advance : (s.advance).keys = s.keys := rfl
@[simp] theorem State.turns_advance : (s.advance).turns = s.turns := rfl
@[simp] theorem State.inbox_advance : (s.advance).inbox = s.inbox := rfl
@[simp] theorem State.reply_advance : (s.advance).reply = s.reply := rfl
@[simp] theorem State.reg_advance (r : Reg) : (s.advance).reg r = s.reg r := rfl

@[simp] theorem State.mem_skipNext : (s.skipNext).mem = s.mem := rfl
@[simp] theorem State.v_skipNext : (s.skipNext).v = s.v := rfl
@[simp] theorem State.i_skipNext : (s.skipNext).i = s.i := rfl
@[simp] theorem State.pc_skipNext : (s.skipNext).pc = s.pc + 4 := rfl
@[simp] theorem State.stack_skipNext : (s.skipNext).stack = s.stack := rfl
@[simp] theorem State.dt_skipNext : (s.skipNext).dt = s.dt := rfl
@[simp] theorem State.st_skipNext : (s.skipNext).st = s.st := rfl
@[simp] theorem State.disp_skipNext : (s.skipNext).disp = s.disp := rfl
@[simp] theorem State.fault_skipNext : (s.skipNext).fault = s.fault := rfl
@[simp] theorem State.draws_skipNext : (s.skipNext).draws = s.draws := rfl
@[simp] theorem State.keys_skipNext : (s.skipNext).keys = s.keys := rfl
@[simp] theorem State.turns_skipNext : (s.skipNext).turns = s.turns := rfl
@[simp] theorem State.inbox_skipNext : (s.skipNext).inbox = s.inbox := rfl
@[simp] theorem State.reply_skipNext : (s.skipNext).reply = s.reply := rfl
@[simp] theorem State.reg_skipNext (r : Reg) : (s.skipNext).reg r = s.reg r := rfl

/-- A register write is seen in that register, and in no other. -/
theorem State.reg_setReg (x r : Reg) (b : Byte) : (s.setReg x b).reg r = if x = r then b else s.reg r := by
  simp only [State.reg, State.setReg, Vector.getElem_set, BitVec.toNat_inj]

@[simp] theorem State.reg_setReg_same (x : Reg) (b : Byte) : (s.setReg x b).reg x = b := by
  simp [State.reg_setReg]

@[simp] theorem State.reg_setReg_of_ne {x r : Reg} (h : r ≠ x) (b : Byte) : (s.setReg x b).reg r = s.reg r := by
  simp [State.reg_setReg, h.symm]

theorem State.reg_setRegs (w : Vector Byte 16) (r : Reg) : (s.setRegs w).reg r = w[r.toNat]'r.isLt := rfl

/-- The result and the flag of R86: the flag wins in VF. -/
theorem State.reg_setRegThenFlag (x r : Reg) (b f : Byte) :
    (s.setRegThenFlag x b f).reg r = if r = vf then f else if r = x then b else s.reg r := by
  simp only [State.setRegThenFlag, State.reg_setReg, eq_comm]

/-- A conditional skip changes the pc alone. -/
theorem State.skipIf_eq (c : Bool) : s.skipIf c = s.setPc (if c then s.pc + 4 else s.pc + 2) := by
  cases c <;> rfl

@[simp] theorem State.mem_setRegThenFlag (x : Reg) (b f : Byte) : (s.setRegThenFlag x b f).mem = s.mem := rfl
@[simp] theorem State.mem_skipIf (c : Bool) : (s.skipIf c).mem = s.mem := by simp [State.skipIf_eq]
@[simp] theorem State.v_skipIf (c : Bool) : (s.skipIf c).v = s.v := by simp [State.skipIf_eq]
@[simp] theorem State.i_setRegThenFlag (x : Reg) (b f : Byte) : (s.setRegThenFlag x b f).i = s.i := rfl
@[simp] theorem State.i_skipIf (c : Bool) : (s.skipIf c).i = s.i := by simp [State.skipIf_eq]
@[simp] theorem State.stack_setRegThenFlag (x : Reg) (b f : Byte) : (s.setRegThenFlag x b f).stack = s.stack := rfl
@[simp] theorem State.stack_skipIf (c : Bool) : (s.skipIf c).stack = s.stack := by simp [State.skipIf_eq]
@[simp] theorem State.dt_setRegThenFlag (x : Reg) (b f : Byte) : (s.setRegThenFlag x b f).dt = s.dt := rfl
@[simp] theorem State.dt_skipIf (c : Bool) : (s.skipIf c).dt = s.dt := by simp [State.skipIf_eq]
@[simp] theorem State.st_setRegThenFlag (x : Reg) (b f : Byte) : (s.setRegThenFlag x b f).st = s.st := rfl
@[simp] theorem State.st_skipIf (c : Bool) : (s.skipIf c).st = s.st := by simp [State.skipIf_eq]
@[simp] theorem State.disp_setRegThenFlag (x : Reg) (b f : Byte) : (s.setRegThenFlag x b f).disp = s.disp := rfl
@[simp] theorem State.disp_skipIf (c : Bool) : (s.skipIf c).disp = s.disp := by simp [State.skipIf_eq]
@[simp] theorem State.fault_setRegThenFlag (x : Reg) (b f : Byte) : (s.setRegThenFlag x b f).fault = s.fault := rfl
@[simp] theorem State.fault_skipIf (c : Bool) : (s.skipIf c).fault = s.fault := by simp [State.skipIf_eq]
@[simp] theorem State.draws_setRegThenFlag (x : Reg) (b f : Byte) : (s.setRegThenFlag x b f).draws = s.draws := rfl
@[simp] theorem State.draws_skipIf (c : Bool) : (s.skipIf c).draws = s.draws := by simp [State.skipIf_eq]
@[simp] theorem State.keys_setRegThenFlag (x : Reg) (b f : Byte) : (s.setRegThenFlag x b f).keys = s.keys := rfl
@[simp] theorem State.turns_setRegThenFlag (x : Reg) (b f : Byte) : (s.setRegThenFlag x b f).turns = s.turns := rfl
@[simp] theorem State.keys_skipIf (c : Bool) : (s.skipIf c).keys = s.keys := by simp [State.skipIf_eq]
@[simp] theorem State.turns_skipIf (c : Bool) : (s.skipIf c).turns = s.turns := by simp [State.skipIf_eq]
@[simp] theorem State.inbox_setRegThenFlag (x : Reg) (b f : Byte) : (s.setRegThenFlag x b f).inbox = s.inbox := rfl
@[simp] theorem State.inbox_skipIf (c : Bool) : (s.skipIf c).inbox = s.inbox := by simp [State.skipIf_eq]
@[simp] theorem State.reply_setRegThenFlag (x : Reg) (b f : Byte) : (s.setRegThenFlag x b f).reply = s.reply := rfl
@[simp] theorem State.reply_skipIf (c : Bool) : (s.skipIf c).reply = s.reply := by simp [State.skipIf_eq]
@[simp] theorem State.pc_setRegThenFlag (x : Reg) (b f : Byte) : (s.setRegThenFlag x b f).pc = s.pc := rfl
@[simp] theorem State.pc_skipIf (c : Bool) : (s.skipIf c).pc = if c then s.pc + 4 else s.pc + 2 := by
  simp [State.skipIf_eq]
@[simp] theorem State.reg_skipIf (c : Bool) (r : Reg) : (s.skipIf c).reg r = s.reg r := by simp [State.skipIf_eq]

/-- Every register of the reset state is 0 (R39). -/
@[simp] theorem State.reg_reset (r : Reg) : State.reset.reg r = 0 := by simp [State.reg, State.reset]

end Sys2Proof.Machine
end

