-- ==== Sys2Proof/Laws/HostPort.lean ====
section
/-! SUPPORT. The laws of the host interface (spec/70_reset_and_hazards.md): what each transaction's result holds, field by
field, the display buffer as a list, and the validity of an image as the conditions of R160. -/

namespace Sys2Proof.Machine

variable (s : State)

/-! ### Taking a call and returning a result -/

@[simp] theorem State.mem_popCall : s.popCall.mem = s.mem := rfl
@[simp] theorem State.v_popCall : s.popCall.v = s.v := rfl
@[simp] theorem State.i_popCall : s.popCall.i = s.i := rfl
@[simp] theorem State.pc_popCall : s.popCall.pc = s.pc := rfl
@[simp] theorem State.stack_popCall : s.popCall.stack = s.stack := rfl
@[simp] theorem State.dt_popCall : s.popCall.dt = s.dt := rfl
@[simp] theorem State.st_popCall : s.popCall.st = s.st := rfl
@[simp] theorem State.disp_popCall : s.popCall.disp = s.disp := rfl
@[simp] theorem State.fault_popCall : s.popCall.fault = s.fault := rfl
@[simp] theorem State.draws_popCall : s.popCall.draws = s.draws := rfl
@[simp] theorem State.keys_popCall : s.popCall.keys = s.keys := rfl
@[simp] theorem State.turns_popCall : s.popCall.turns = s.turns + 1 := rfl
@[simp] theorem State.inbox_popCall : s.popCall.inbox = s.inbox.tail := rfl
@[simp] theorem State.reply_popCall : s.popCall.reply = s.reply := rfl
@[simp] theorem State.reg_popCall (r : Reg) : s.popCall.reg r = s.reg r := rfl

@[simp] theorem mem_answer (p : State × Reply) : (answer p).mem = p.1.mem := rfl
@[simp] theorem v_answer (p : State × Reply) : (answer p).v = p.1.v := rfl
@[simp] theorem i_answer (p : State × Reply) : (answer p).i = p.1.i := rfl
@[simp] theorem pc_answer (p : State × Reply) : (answer p).pc = p.1.pc := rfl
@[simp] theorem stack_answer (p : State × Reply) : (answer p).stack = p.1.stack := rfl
@[simp] theorem dt_answer (p : State × Reply) : (answer p).dt = p.1.dt := rfl
@[simp] theorem st_answer (p : State × Reply) : (answer p).st = p.1.st := rfl
@[simp] theorem disp_answer (p : State × Reply) : (answer p).disp = p.1.disp := rfl
@[simp] theorem fault_answer (p : State × Reply) : (answer p).fault = p.1.fault := rfl
@[simp] theorem draws_answer (p : State × Reply) : (answer p).draws = p.1.draws := rfl
@[simp] theorem keys_answer (p : State × Reply) : (answer p).keys = p.1.keys := rfl
@[simp] theorem turns_answer (p : State × Reply) : (answer p).turns = p.1.turns := rfl
@[simp] theorem inbox_answer (p : State × Reply) : (answer p).inbox = p.1.inbox := rfl
@[simp] theorem reply_answer (p : State × Reply) : (answer p).reply = some p.2 := rfl
@[simp] theorem reg_answer (p : State × Reply) (r : Reg) : (answer p).reg r = p.1.reg r := rfl

/-! ### The machine's part of a state -/

@[simp] theorem State.mem_machine : s.machine.mem = s.mem := rfl
@[simp] theorem State.v_machine : s.machine.v = s.v := rfl
@[simp] theorem State.i_machine : s.machine.i = s.i := rfl
@[simp] theorem State.pc_machine : s.machine.pc = s.pc := rfl
@[simp] theorem State.stack_machine : s.machine.stack = s.stack := rfl
@[simp] theorem State.dt_machine : s.machine.dt = s.dt := rfl
@[simp] theorem State.st_machine : s.machine.st = s.st := rfl
@[simp] theorem State.disp_machine : s.machine.disp = s.disp := rfl
@[simp] theorem State.fault_machine : s.machine.fault = s.fault := rfl
@[simp] theorem State.draws_machine : s.machine.draws = 0 := rfl
@[simp] theorem State.keys_machine : s.machine.keys = 0 := rfl
@[simp] theorem State.turns_machine : s.machine.turns = 0 := rfl
@[simp] theorem State.inbox_machine : s.machine.inbox = [] := rfl
@[simp] theorem State.reply_machine : s.machine.reply = none := rfl
@[simp] theorem State.reg_machine (r : Reg) : s.machine.reg r = s.reg r := rfl

@[simp] theorem State.machine_setDraws (n : Nat) : (s.setDraws n).machine = s.machine := rfl
@[simp] theorem State.machine_setKeys (k : Keys) : (s.setKeys k).machine = s.machine := rfl
@[simp] theorem State.machine_setTurns (n : Nat) : (s.setTurns n).machine = s.machine := rfl
@[simp] theorem State.machine_setInbox (l : List HostCall) : (s.setInbox l).machine = s.machine := rfl
@[simp] theorem State.machine_setReply (r : Option Reply) : (s.setReply r).machine = s.machine := rfl
@[simp] theorem State.machine_machine : s.machine.machine = s.machine := rfl
@[simp] theorem State.machine_popCall : s.popCall.machine = s.machine := rfl
@[simp] theorem machine_answer (p : State × Reply) : (answer p).machine = p.1.machine := rfl

/-- The outputs see the machine alone (R157): what they give after any change of the model's own fields is the same. -/
theorem State.faultStatus_machine : s.machine.faultStatus = s.faultStatus := by
  simp only [State.faultStatus, State.fault_machine, State.machine_machine]

theorem State.soundActive_machine : s.machine.soundActive = s.soundActive := rfl

theorem State.displayBuffer_machine : s.machine.displayBuffer = s.displayBuffer := by
  simp only [State.displayBuffer, State.disp_machine]

/-! ### The timer transaction -/

/-- One countdown step, as a number: down by 1, and 0 stays 0 (R123). -/
theorem countDown_toNat (b : Byte) : (countDown b).toNat = b.toNat - 1 := by
  unfold countDown
  split
  · rename_i h
    subst h
    rfl
  · rename_i h
    have h0 : b.toNat ≠ 0 := fun hc => h (BitVec.eq_of_toNat_eq (by simpa using hc))
    have hb := b.isLt
    rw [BitVec.toNat_sub]
    simp
    omega

@[simp] theorem State.mem_updateTimers : s.updateTimers.mem = s.mem := rfl
@[simp] theorem State.v_updateTimers : s.updateTimers.v = s.v := rfl
@[simp] theorem State.i_updateTimers : s.updateTimers.i = s.i := rfl
@[simp] theorem State.pc_updateTimers : s.updateTimers.pc = s.pc := rfl
@[simp] theorem State.stack_updateTimers : s.updateTimers.stack = s.stack := rfl
@[simp] theorem State.dt_updateTimers : s.updateTimers.dt = countDown s.dt := rfl
@[simp] theorem State.st_updateTimers : s.updateTimers.st = countDown s.st := rfl
@[simp] theorem State.disp_updateTimers : s.updateTimers.disp = s.disp := rfl
@[simp] theorem State.fault_updateTimers : s.updateTimers.fault = s.fault := rfl
@[simp] theorem State.draws_updateTimers : s.updateTimers.draws = s.draws := rfl
@[simp] theorem State.keys_updateTimers : s.updateTimers.keys = s.keys := rfl
@[simp] theorem State.turns_updateTimers : s.updateTimers.turns = s.turns := rfl
@[simp] theorem State.inbox_updateTimers : s.updateTimers.inbox = s.inbox := rfl
@[simp] theorem State.reply_updateTimers : s.updateTimers.reply = s.reply := rfl
@[simp] theorem State.reg_updateTimers (r : Reg) : s.updateTimers.reg r = s.reg r := rfl

/-! ### The tick -/

theorem tick_of_fault {f : Fault} (h : s.fault = some f) : tick s = .next s := by
  simp only [tick, h]

theorem tick_of_fetch {op : Word} (h : s.fault = none) (ho : fetch s = .ok op) : tick s = runWord op s := by
  simp only [tick, h, ho]

theorem tick_of_fetch_error {f : Fault} (h : s.fault = none) (ho : fetch s = .error f) : tick s = raise f s := by
  simp only [tick, h, ho]

theorem runWord_ok {op : Word} {i : Instr} (h : decodeWord op = .ok i) : runWord op s = exec i s := by
  simp only [runWord, h]

theorem runWord_error {op : Word} {e : Reject} (h : decodeWord op = .error e) :
    runWord op s = raise (.unknownOpcode op) s := by
  simp only [runWord, h]

/-- A fetch looks at the pc and the memory alone. -/
theorem fetch_congr {s t : State} (hp : t.pc = s.pc) (hm : t.mem = s.mem) : fetch t = fetch s := by
  simp only [fetch, hp, hm]

theorem fetch_of_le (h : s.pc.toNat + 2 ≤ memSize) : fetch s = .ok (wordAt s.mem s.pc.toNat) := by
  simp [fetch, inRange, h]

theorem fetch_of_lt (h : memSize < s.pc.toNat + 2) :
    fetch s = .error (.outOfBoundsMemory (outOfRangeInfo s.pc.toNat)) := by
  simp [fetch, inRange, Nat.not_le.mpr h]

/-- What a tick can do: nothing on a faulted machine, a fault raised, or an instruction executed (R79). -/
theorem tick_next {t : State} (h : tick s = .next t) :
    (s.fault ≠ none ∧ t = s) ∨ (s.fault = none ∧ ∃ f, t = s.setFault (some f)) ∨
      (s.fault = none ∧ ∃ op i, fetch s = .ok op ∧ decodeWord op = .ok i ∧ exec i s = .next t) := by
  cases hf : s.fault with
  | some f =>
    rw [tick_of_fault s hf] at h
    injection h with h
    exact .inl ⟨by simp, h.symm⟩
  | none =>
    cases ho : fetch s with
    | error f =>
      rw [tick_of_fetch_error s hf ho] at h
      injection h with h
      exact .inr (.inl ⟨rfl, f, h.symm⟩)
    | ok op =>
      rw [tick_of_fetch s hf ho] at h
      cases hd : decodeWord op with
      | error e =>
        rw [runWord_error s hd] at h
        injection h with h
        exact .inr (.inl ⟨rfl, _, h.symm⟩)
      | ok i =>
        rw [runWord_ok s hd] at h
        exact .inr (.inr ⟨rfl, op, i, rfl, hd, h⟩)

/-- A reported next state is the next state without the key flags of the tick and with its reply (R34, R84). -/
theorem report_next {r : Result} {t : State} (h : report r = .next t) :
    ∃ u, r = .next u ∧ t = u.releaseKeys.setReply (some (tickReply u)) := by
  cases r with
  | next u =>
    injection h with h
    exact ⟨u, rfl, h.symm⟩
  | fault f => cases h
  | refused f => cases h

theorem tickReply_of_none (h : s.fault = none) : tickReply s = .ok := by
  simp only [tickReply, h]

theorem tickReply_of_some {f : Fault} (h : s.fault = some f) : tickReply s = .fault f := by
  simp only [tickReply, h]

/-- A step whose call is a tick is the tick with its flags on the port, reported (R79, R155). -/
theorem step_of_tick {k : Keys} (h : s.nextCall = .tick k) : step s = report (tick (s.popCall.setKeys k)) := by
  simp only [step, h, transact]

/-! ### Program load -/

theorem State.loadRom_of_le {bytes : List Byte} (h : bytes.length ≤ maxRom) :
    s.loadRom bytes = (((((State.reset.setMem (Memory.writeBytes [] entry bytes)).setDraws s.draws).setKeys
      s.keys).setTurns s.turns).setInbox s.inbox, .ok) := by
  simp only [State.loadRom, h, if_true]

theorem State.loadRom_of_lt {bytes : List Byte} (h : maxRom < bytes.length) :
    s.loadRom bytes = (s, .decodeError .romTooLarge) := by
  simp only [State.loadRom, Nat.not_le.mpr h, if_false]

/-- What memory holds after an image is placed in the reset contents (R151). -/
theorem Memory.read_image {bytes : List Byte} (h : bytes.length ≤ maxRom) (a : Nat) :
    Memory.read (Memory.writeBytes [] entry bytes) a =
      if entry ≤ a ∧ a < entry + bytes.length then bytes.getD (a - entry) 0 else Memory.unlisted a := by
  unfold maxRom at h
  rw [Memory.read_writeBytes _ _ _ _ (by unfold entry memSize at *; omega), Memory.read_nil]

/-! ### The display buffer -/

theorem State.length_displayBuffer : s.displayBuffer.length = 2048 := by
  simp only [State.displayBuffer, List.length_map, List.length_range]

theorem State.getElem_displayBuffer {k : Nat} (h : k < 2048) :
    s.displayBuffer[k]? = some (Display.pixel s.disp (Fin.ofNat 64 k) (Fin.ofNat 32 (k / 64))) := by
  simp only [State.displayBuffer, List.getElem?_map, List.getElem?_range h, Option.map_some]

theorem Display.pixel_ofBits (l : List Bool) (x : Fin 64) (y : Fin 32) :
    Display.pixel (Display.ofBits l) x y = l.getD (y.val * 64 + x.val) false := by
  simp [Display.pixel, Display.ofBits]

/-! ### State images -/

theorem State.snapshot_tag : s.snapshot.tag = Config.versionTag := by simp only [State.snapshot]
theorem State.snapshot_mem : s.snapshot.mem = (Memory.readBytes s.mem 0 memSize).map BitVec.toNat := by simp only [State.snapshot]
theorem State.snapshot_v : s.snapshot.v = s.v.toList.map BitVec.toNat := by simp only [State.snapshot]
theorem State.snapshot_i : s.snapshot.i = s.i.toNat := by simp only [State.snapshot]
theorem State.snapshot_pc : s.snapshot.pc = s.pc.toNat := by simp only [State.snapshot]
theorem State.snapshot_depth : s.snapshot.depth = s.depth := by simp only [State.snapshot]
theorem State.snapshot_stack : s.snapshot.stack = s.stack.map BitVec.toNat := by simp only [State.snapshot]
theorem State.snapshot_dt : s.snapshot.dt = s.dt.toNat := by simp only [State.snapshot]
theorem State.snapshot_st : s.snapshot.st = s.st.toNat := by simp only [State.snapshot]
theorem State.snapshot_disp : s.snapshot.disp = s.displayBuffer := by simp only [State.snapshot]
theorem State.mem_restore (img : Image) :
    (s.restore img).mem = Memory.writeBytes [] 0 (img.mem.map (BitVec.ofNat 8)) := by simp only [State.restore]
theorem State.v_restore (img : Image) :
    (s.restore img).v = Vector.ofFn (fun k : Fin 16 => BitVec.ofNat 8 (img.v.getD k.val 0)) := by simp only [State.restore]
theorem State.reg_restore (img : Image) (r : Reg) :
    (s.restore img).reg r = BitVec.ofNat 8 (img.v.getD r.toNat 0) := by
  simp [State.reg, State.v_restore]
theorem State.i_restore (img : Image) :
    (s.restore img).i = BitVec.ofNat 16 img.i := by simp only [State.restore]
theorem State.pc_restore (img : Image) :
    (s.restore img).pc = BitVec.ofNat 16 img.pc := by simp only [State.restore]
theorem State.stack_restore (img : Image) :
    (s.restore img).stack = img.stack.map (BitVec.ofNat 16) := by simp only [State.restore]
theorem State.dt_restore (img : Image) :
    (s.restore img).dt = BitVec.ofNat 8 img.dt := by simp only [State.restore]
theorem State.st_restore (img : Image) :
    (s.restore img).st = BitVec.ofNat 8 img.st := by simp only [State.restore]
theorem State.disp_restore (img : Image) :
    (s.restore img).disp = Display.ofBits img.disp := by simp only [State.restore]
theorem State.fault_restore (img : Image) :
    (s.restore img).fault = none := by simp only [State.restore]
theorem State.draws_restore (img : Image) :
    (s.restore img).draws = s.draws := by simp only [State.restore]
theorem State.keys_restore (img : Image) :
    (s.restore img).keys = s.keys := by simp only [State.restore]
theorem State.turns_restore (img : Image) :
    (s.restore img).turns = s.turns := by simp only [State.restore]
theorem State.inbox_restore (img : Image) :
    (s.restore img).inbox = s.inbox := by simp only [State.restore]
theorem State.reply_restore (img : Image) :
    (s.restore img).reply = s.reply := by simp only [State.restore]

theorem allFit_iff (b : Nat) (l : List Nat) : allFit b l = true ↔ allBelow (2 ^ b) l := by
  simp [allFit, allBelow]

/-- The check of an image is the conjunction of the conditions of R160. -/
theorem Image.valid_iff (img : Image) : img.valid = true ↔ ImageFits img := by
  unfold Image.valid Image.complete Image.inWidth
  simp only [Bool.and_eq_true, beq_iff_eq, decide_eq_true_eq, allFit_iff]
  constructor
  · rintro ⟨⟨⟨a, ⟨⟨b, c⟩, d⟩, e⟩, ⟨⟨⟨f, g⟩, h⟩, i⟩, j⟩, k⟩
    exact ⟨a, b, c, d, e, f, g, h, i _ (by simp), i _ (by simp), j _ (by simp), j _ (by simp), k⟩
  · rintro ⟨a, b, c, d, e, f, g, h, i, i', j, j', k⟩
    exact ⟨⟨⟨a, ⟨⟨b, c⟩, d⟩, e⟩, ⟨⟨⟨f, g⟩, h⟩, by simp [allBelow, i, i']⟩, by simp [allBelow, j, j']⟩, k⟩

/-- A number of a list that fits is below the bound, and so is the default 0. -/
theorem getD_lt_of_allBelow {n : Nat} {l : List Nat} (h : allBelow n l) (hn : 0 < n) (k : Nat) : l.getD k 0 < n := by
  rw [List.getD_eq_getElem?_getD]
  by_cases hk : k < l.length
  · rw [List.getElem?_eq_getElem hk]
    exact h _ (List.getElem_mem hk)
  · rw [List.getElem?_eq_none (Nat.le_of_not_lt hk)]
    exact hn

/-- A canonical memory lists nothing outside the address space. -/
theorem Memory.read_of_memSize_le {m : Memory} (h : Memory.wf m) {a : Nat} (ha : memSize ≤ a) :
    Memory.read m a = Memory.unlisted a := by
  obtain ⟨-, h⟩ := h
  induction m with
  | nil => rfl
  | cons c rest ih =>
    have hc := (h c (by simp)).1
    rw [Memory.read, if_neg (by omega), ih fun d hd => h d (by simp [hd])]

/-! ### The invariant -/

/-- The invariant looks at the memory, the stack and the key port alone. -/
theorem State.inv_of_wf {s t : State} (h : s.Inv) (hm : Memory.wf t.mem) (hs : t.stack = s.stack) (hk : t.keys = 0) :
    t.Inv := by
  unfold State.Inv State.depth at *
  rw [hs]
  exact ⟨hm, h.2.1, hk⟩

/-- A state with the memory, the stack and the key port of one that meets the invariant meets it. -/
theorem State.inv_of_eq {s t : State} (h : s.Inv) (hm : t.mem = s.mem) (hs : t.stack = s.stack) (hk : t.keys = s.keys) :
    t.Inv :=
  State.inv_of_wf h (hm ▸ h.1) hs (hk.trans h.2.2)

end Sys2Proof.Machine
end

