-- ==== Sys2Proof/Laws/Ops.lean ====
section
/-! SUPPORT. One lemma for each shared operation that says everything it can do. A proof about an instruction cites these
and does not unfold the operation. -/

namespace Sys2Proof.Machine

/-! ### Raising a fault and the range check -/

theorem raise_eq (f : Fault) (s : State) : raise f s = .next (s.setFault (some f)) := rfl

/-- The info of an out-of-range access that starts at a 16-bit address (R55). -/
theorem outOfRangeInfo_toNat (w : Word) : outOfRangeInfo w.toNat = if 4096 ≤ w.toNat then w else 0x1000 := by
  unfold outOfRangeInfo memSize
  split
  · simp
  · rfl

theorem checkRange_of_le {base n : Nat} (h : base + n ≤ memSize) (s : State) (k : Result) :
    checkRange base n s k = k := by
  simp [checkRange, inRange, h]

theorem checkRange_of_lt {base n : Nat} (h : memSize < base + n) (s : State) (k : Result) :
    checkRange base n s k = raise (.outOfBoundsMemory (outOfRangeInfo base)) s := by
  simp [checkRange, inRange, Nat.not_le.mpr h]

/-- What a range check can do: go on, or raise the fault and write nothing else (R56). -/
theorem checkRange_next {base n : Nat} {s t : State} {k : Result} (h : checkRange base n s k = .next t) :
    (base + n ≤ memSize ∧ k = .next t) ∨
      (memSize < base + n ∧ t = s.setFault (some (.outOfBoundsMemory (outOfRangeInfo base)))) := by
  by_cases hr : base + n ≤ memSize
  · rw [checkRange_of_le hr] at h
    exact .inl ⟨hr, h⟩
  · rw [checkRange_of_lt (Nat.lt_of_not_le hr), raise_eq] at h
    exact .inr ⟨Nat.lt_of_not_le hr, by injection h with h; exact h.symm⟩

/-! ### The call stack -/

theorem push_of_lt {s : State} (h : s.depth < stackDepth) (w : Word) (k : State → Result) :
    push w s k = k (s.setStack (s.stack ++ [w])) := by
  simp [push, h]

theorem push_of_le {s : State} (h : stackDepth ≤ s.depth) (w : Word) (k : State → Result) :
    push w s k = raise (.stackOverflow s.pc) s := by
  simp [push, Nat.not_lt.mpr h]

/-- What a push can do: append one entry below the limit, or overflow (R29). -/
theorem push_next {s t : State} {w : Word} {k : State → Result} (h : push w s k = .next t) :
    (s.depth < stackDepth ∧ k (s.setStack (s.stack ++ [w])) = .next t) ∨
      (stackDepth ≤ s.depth ∧ t = s.setFault (some (.stackOverflow s.pc))) := by
  by_cases hd : s.depth < stackDepth
  · rw [push_of_lt hd] at h
    exact .inl ⟨hd, h⟩
  · rw [push_of_le (Nat.le_of_not_lt hd), raise_eq] at h
    exact .inr ⟨Nat.le_of_not_lt hd, by injection h with h; exact h.symm⟩

theorem pop_nil {s : State} (h : s.stack = []) (k : Word → State → Result) :
    pop s k = raise (.stackUnderflow s.pc) s := by
  simp [pop, h]

theorem pop_concat {s : State} {l : List Word} {w : Word} (h : s.stack = l ++ [w]) (k : Word → State → Result) :
    pop s k = k w (s.setStack l) := by
  simp [pop, h]

/-- What a pop can do: remove the newest entry, or underflow (R30). -/
theorem pop_next {s t : State} {k : Word → State → Result} (h : pop s k = .next t) :
    (∃ l w, s.stack = l ++ [w] ∧ k w (s.setStack l) = .next t) ∨
      (s.stack = [] ∧ t = s.setFault (some (.stackUnderflow s.pc))) := by
  rcases List.eq_nil_or_concat s.stack with hs | ⟨l, w, hs⟩
  · rw [pop_nil hs, raise_eq] at h
    exact .inr ⟨hs, by injection h with h; exact h.symm⟩
  · rw [List.concat_eq_append] at hs
    rw [pop_concat hs] at h
    exact .inl ⟨l, w, hs, h⟩

/-! ### Operands -/

theorem zext16_toNat (nnn : Addr) : (zext16 nnn).toNat = nnn.toNat := by
  have := nnn.isLt
  simp only [zext16, BitVec.toNat_setWidth]
  omega

theorem lowNibble_toNat (b : Byte) : (lowNibble b).toNat = b.toNat % 16 := by
  simp [lowNibble, BitVec.extractLsb'_toNat]

theorem glyphAddress_toNat (b : Byte) : (glyphAddress b).toNat = 5 * (b.toNat % 16) := by
  simp only [glyphAddress, fontBase, glyphSize, lowNibble_toNat, BitVec.toNat_ofNat]
  omega

theorem length_regsUpTo (s : State) (x : Reg) : (s.regsUpTo x).length = regCount x := by
  have := x.isLt
  simp only [State.regsUpTo, regCount, List.length_take, Vector.length_toList]
  omega

theorem getD_regsUpTo (s : State) (x r : Reg) (h : r.toNat ≤ x.toNat) :
    (s.regsUpTo x).getD r.toNat 0 = s.reg r := by
  have hr := r.isLt
  have : r.toNat < regCount x := by simp only [regCount]; omega
  simp [State.regsUpTo, List.getD_eq_getElem?_getD, this, hr, State.reg]

/-- The register file FX65 loads: V0..Vx from memory, and the others as they were (R113). -/
theorem reg_regsLoaded (s : State) (x r : Reg) (base : Nat) :
    (s.setRegs (s.regsLoaded x base)).reg r =
      if r.toNat ≤ x.toNat then Memory.read s.mem (base + r.toNat) else s.reg r := by
  rw [State.reg_setRegs]
  simp only [State.regsLoaded, Vector.getElem_ofFn]
  rfl

theorem indexAfter_toNat (inc : Bool) (x : Reg) (i : Word) :
    (indexAfter inc x i).toNat = if inc = true then (i.toNat + x.toNat + 1) % 65536 else i.toNat := by
  cases inc with
  | false => simp [indexAfter]
  | true =>
    simp only [indexAfter, regCount, if_true, BitVec.toNat_add, BitVec.toNat_ofNat]
    omega

/-- The lowest pressed key is found when some key is pressed (R130). -/
theorem lowestKey_of_pressed (s : State) (k : Nat) (hk : k < 16) (hp : s.keys.getLsbD k = true)
    (hl : ∀ j < k, s.keys.getLsbD j = false) : s.lowestKey = some k := by
  unfold State.lowestKey
  rw [List.find?_range_eq_some]
  exact ⟨hp, by simpa using hk, fun j hj => by simp [hl j hj]⟩

/-- No key is found when none is pressed (R130). -/
theorem lowestKey_of_none (s : State) (h : ∀ k < 16, s.keys.getLsbD k = false) : s.lowestKey = none := by
  unfold State.lowestKey
  rw [List.find?_eq_none]
  intro k hk
  simp [h k (List.mem_range.mp hk)]

/-! ### Flags -/

theorem flagByte_toNat (b : Bool) : (flagByte b).toNat = if b = true then 1 else 0 := by cases b <;> rfl

theorem carryFlag_toNat (a b : Byte) : (carryFlag a b).toNat = if 255 < a.toNat + b.toNat then 1 else 0 := by
  simp [carryFlag, flagByte_toNat]

theorem notBorrowFlag_toNat (a b : Byte) : (notBorrowFlag a b).toNat = if b.toNat ≤ a.toNat then 1 else 0 := by
  simp [notBorrowFlag, flagByte_toNat]

theorem shiftedOutRight_toNat (a : Byte) : (shiftedOutRight a).toNat = a.toNat % 2 := by
  simp [shiftedOutRight]

theorem shiftedOutLeft_toNat (a : Byte) : (shiftedOutLeft a).toNat = a.toNat / 128 := by
  simp [shiftedOutLeft, Nat.shiftRight_eq_div_pow]

end Sys2Proof.Machine
end

