-- ==== Sys2Proof/Laws/PerInstr.lean ====
section
/-! SUPPORT. The family of statements made per instruction: the word an instruction is encoded as has the fixed bits of the
instruction's own row of the opcode map, and the row is one of the 34 (spec/30_encoding.md R67). -/

namespace Sys2Proof.Laws.RowMatch

/-- The instruction's row is in the opcode map and covers the instruction's word. -/
def Statement (i : Instr) : Prop := i.row ∈ opcodeRows ∧ i.row.covers (encodeWord i) = true

/-- A row selected by the class alone covers every word of that class. -/
theorem covers_class {w b : Word} (h : layoutXYN (fieldClass w) 0 0 0 = b) : OpRow.covers ⟨0xF000, b⟩ w = true := by
  simp only [OpRow.covers, beq_iff_eq]
  exact (and_classMask w).trans h

/-- A row selected by class and low nibble covers every word with both. -/
theorem covers_nibble {w b : Word} (h : layoutXYN (fieldClass w) 0 0 (fieldN w) = b) :
    OpRow.covers ⟨0xF00F, b⟩ w = true := by
  simp only [OpRow.covers, beq_iff_eq]
  exact (and_nibbleMask w).trans h

/-- A row selected by class and low byte covers every word with both. -/
theorem covers_byte {w b : Word} (h : layoutX (fieldClass w) 0 (fieldNN w) = b) :
    OpRow.covers ⟨0xF0FF, b⟩ w = true := by
  simp only [OpRow.covers, beq_iff_eq]
  exact (and_byteMask w).trans h

theorem cls : Statement (.cls) :=
  ⟨by decide, by decide⟩

theorem ret : Statement (.ret) :=
  ⟨by decide, by decide⟩

theorem jp (nnn : Addr) : Statement (.jp nnn) :=
  ⟨by simp only [Instr.row]; decide, covers_class (by simp only [encodeWord, fieldClass_layoutNNN]; rfl)⟩

theorem call (nnn : Addr) : Statement (.call nnn) :=
  ⟨by simp only [Instr.row]; decide, covers_class (by simp only [encodeWord, fieldClass_layoutNNN]; rfl)⟩

theorem seImm (x : Reg) (nn : Byte) : Statement (.seImm x nn) :=
  ⟨by simp only [Instr.row]; decide, covers_class (by simp only [encodeWord, fieldClass_layoutXNN]; rfl)⟩

theorem sneImm (x : Reg) (nn : Byte) : Statement (.sneImm x nn) :=
  ⟨by simp only [Instr.row]; decide, covers_class (by simp only [encodeWord, fieldClass_layoutXNN]; rfl)⟩

theorem seReg (x y : Reg) : Statement (.seReg x y) :=
  ⟨by simp only [Instr.row]; decide, covers_nibble (by simp only [encodeWord, fieldClass_layoutXYN, fieldN_layoutXYN]; rfl)⟩

theorem ldImm (x : Reg) (nn : Byte) : Statement (.ldImm x nn) :=
  ⟨by simp only [Instr.row]; decide, covers_class (by simp only [encodeWord, fieldClass_layoutXNN]; rfl)⟩

theorem addImm (x : Reg) (nn : Byte) : Statement (.addImm x nn) :=
  ⟨by simp only [Instr.row]; decide, covers_class (by simp only [encodeWord, fieldClass_layoutXNN]; rfl)⟩

theorem ldReg (x y : Reg) : Statement (.ldReg x y) :=
  ⟨by simp only [Instr.row]; decide, covers_nibble (by simp only [encodeWord, fieldClass_layoutXYN, fieldN_layoutXYN]; rfl)⟩

theorem orReg (x y : Reg) : Statement (.orReg x y) :=
  ⟨by simp only [Instr.row]; decide, covers_nibble (by simp only [encodeWord, fieldClass_layoutXYN, fieldN_layoutXYN]; rfl)⟩

theorem andReg (x y : Reg) : Statement (.andReg x y) :=
  ⟨by simp only [Instr.row]; decide, covers_nibble (by simp only [encodeWord, fieldClass_layoutXYN, fieldN_layoutXYN]; rfl)⟩

theorem xorReg (x y : Reg) : Statement (.xorReg x y) :=
  ⟨by simp only [Instr.row]; decide, covers_nibble (by simp only [encodeWord, fieldClass_layoutXYN, fieldN_layoutXYN]; rfl)⟩

theorem addReg (x y : Reg) : Statement (.addReg x y) :=
  ⟨by simp only [Instr.row]; decide, covers_nibble (by simp only [encodeWord, fieldClass_layoutXYN, fieldN_layoutXYN]; rfl)⟩

theorem subReg (x y : Reg) : Statement (.subReg x y) :=
  ⟨by simp only [Instr.row]; decide, covers_nibble (by simp only [encodeWord, fieldClass_layoutXYN, fieldN_layoutXYN]; rfl)⟩

theorem shrReg (x y : Reg) : Statement (.shrReg x y) :=
  ⟨by simp only [Instr.row]; decide, covers_nibble (by simp only [encodeWord, fieldClass_layoutXYN, fieldN_layoutXYN]; rfl)⟩

theorem subnReg (x y : Reg) : Statement (.subnReg x y) :=
  ⟨by simp only [Instr.row]; decide, covers_nibble (by simp only [encodeWord, fieldClass_layoutXYN, fieldN_layoutXYN]; rfl)⟩

theorem shlReg (x y : Reg) : Statement (.shlReg x y) :=
  ⟨by simp only [Instr.row]; decide, covers_nibble (by simp only [encodeWord, fieldClass_layoutXYN, fieldN_layoutXYN]; rfl)⟩

theorem sneReg (x y : Reg) : Statement (.sneReg x y) :=
  ⟨by simp only [Instr.row]; decide, covers_nibble (by simp only [encodeWord, fieldClass_layoutXYN, fieldN_layoutXYN]; rfl)⟩

theorem ldI (nnn : Addr) : Statement (.ldI nnn) :=
  ⟨by simp only [Instr.row]; decide, covers_class (by simp only [encodeWord, fieldClass_layoutNNN]; rfl)⟩

theorem jpV0 (nnn : Addr) : Statement (.jpV0 nnn) :=
  ⟨by simp only [Instr.row]; decide, covers_class (by simp only [encodeWord, fieldClass_layoutNNN]; rfl)⟩

theorem rnd (x : Reg) (nn : Byte) : Statement (.rnd x nn) :=
  ⟨by simp only [Instr.row]; decide, covers_class (by simp only [encodeWord, fieldClass_layoutXNN]; rfl)⟩

theorem drw (x y : Reg) (n : Nibble) : Statement (.drw x y n) :=
  ⟨by simp only [Instr.row]; decide, covers_class (by simp only [encodeWord, fieldClass_layoutXYN]; rfl)⟩

theorem skp (x : Reg) : Statement (.skp x) :=
  ⟨by simp only [Instr.row]; decide, covers_byte (by simp only [encodeWord, fieldClass_layoutX, fieldNN_layoutX]; rfl)⟩

theorem sknp (x : Reg) : Statement (.sknp x) :=
  ⟨by simp only [Instr.row]; decide, covers_byte (by simp only [encodeWord, fieldClass_layoutX, fieldNN_layoutX]; rfl)⟩

theorem ldVxDt (x : Reg) : Statement (.ldVxDt x) :=
  ⟨by simp only [Instr.row]; decide, covers_byte (by simp only [encodeWord, fieldClass_layoutX, fieldNN_layoutX]; rfl)⟩

theorem ldVxK (x : Reg) : Statement (.ldVxK x) :=
  ⟨by simp only [Instr.row]; decide, covers_byte (by simp only [encodeWord, fieldClass_layoutX, fieldNN_layoutX]; rfl)⟩

theorem ldDtVx (x : Reg) : Statement (.ldDtVx x) :=
  ⟨by simp only [Instr.row]; decide, covers_byte (by simp only [encodeWord, fieldClass_layoutX, fieldNN_layoutX]; rfl)⟩

theorem ldStVx (x : Reg) : Statement (.ldStVx x) :=
  ⟨by simp only [Instr.row]; decide, covers_byte (by simp only [encodeWord, fieldClass_layoutX, fieldNN_layoutX]; rfl)⟩

theorem addI (x : Reg) : Statement (.addI x) :=
  ⟨by simp only [Instr.row]; decide, covers_byte (by simp only [encodeWord, fieldClass_layoutX, fieldNN_layoutX]; rfl)⟩

theorem ldF (x : Reg) : Statement (.ldF x) :=
  ⟨by simp only [Instr.row]; decide, covers_byte (by simp only [encodeWord, fieldClass_layoutX, fieldNN_layoutX]; rfl)⟩

theorem ldB (x : Reg) : Statement (.ldB x) :=
  ⟨by simp only [Instr.row]; decide, covers_byte (by simp only [encodeWord, fieldClass_layoutX, fieldNN_layoutX]; rfl)⟩

theorem ldMemVx (x : Reg) : Statement (.ldMemVx x) :=
  ⟨by simp only [Instr.row]; decide, covers_byte (by simp only [encodeWord, fieldClass_layoutX, fieldNN_layoutX]; rfl)⟩

theorem ldVxMem (x : Reg) : Statement (.ldVxMem x) :=
  ⟨by simp only [Instr.row]; decide, covers_byte (by simp only [encodeWord, fieldClass_layoutX, fieldNN_layoutX]; rfl)⟩

end Sys2Proof.Laws.RowMatch
end

