-- ==== Sys2Proof/Tests/Slice0.lean ====
section
/-! SUPPORT. Tests of the model: the words of spec/30_encoding.md R67 decoded, ill-formed words and images refused, single
steps with the vectors of spec/95_test_vectors.md (each test names its vector), and a witness for the hypotheses of every
statement. No expected value comes from the model. -/

namespace Sys2Proof.Tests

open Sys2Proof.Machine

/-- The next state of a result passes the check. -/
def after (r : Result) (p : State → Bool) : Bool :=
  match r with
  | .next t => p t
  | .fault _ => false
  | .refused _ => false

/-- One tick of the word `w` at the pc of `s`. -/
def run (w : Nat) (s : State) : Result := step (s.withFetchWord 16 w)

/-- Reset with V0 and V1 as given. -/
def two (a b : Byte) : State := (State.reset.setReg 0 a).setReg 1 b

/-- Reset with I as given. -/
def atI (w : Word) : State := State.reset.setI w

/-- Reset with two bytes of memory at 0x300 and I pointing at them. -/
def sprite (a b : Byte) : State := (atI 0x300).setMem (Memory.writeBytes [] 0x300 [a, b])

/-- Reset with the pc as given. -/
def atPc (w : Word) : State := State.reset.setPc w

/-- Reset with a call stack of `n` entries. -/
def deep (n : Nat) : State := State.reset.setStack (List.replicate n 0x202)

/-- Reset with one call of the host pending. -/
def calling (c : HostCall) : State := State.reset.setInbox [c]

/-- The state with a tick pending that holds the key flags `k`. -/
def held (k : Keys) (s : State) : State := s.setInbox [.tick k]

/-- Reset with a latched fault and one call of the host pending. -/
def faulted (c : HostCall) : State := (calling c).setFault (some (.stackUnderflow 0x300))

/-- A valid image at the upper bound of every value: the stack full, and I and the pc beyond the memory. -/
def fullImage : Image where
  tag := Config.versionTag
  mem := List.replicate 4096 255
  v := List.replicate 16 255
  i := 65535
  pc := 65535
  depth := 16
  stack := List.replicate 16 65535
  dt := 255
  st := 255
  disp := List.replicate 2048 true

/-! ## Decoding, from the patterns of R67 -/

theorem test_decode_class0 : decodeTableWord 16 0x00E0 = some .cls ∧ decodeTableWord 16 0x00EE = some .ret := by decide

theorem test_decode_jumps : decodeTableWord 16 0x1ABC = some (.jp 0xABC) ∧ decodeTableWord 16 0x2123 = some (.call 0x123) ∧
    decodeTableWord 16 0xBFED = some (.jpV0 0xFED) := by decide

theorem test_decode_skips : decodeTableWord 16 0x3A2B = some (.seImm 0xA 0x2B) ∧
    decodeTableWord 16 0x4B2C = some (.sneImm 0xB 0x2C) ∧ decodeTableWord 16 0x5120 = some (.seReg 1 2) ∧
    decodeTableWord 16 0x9340 = some (.sneReg 3 4) := by decide

theorem test_decode_immediate : decodeTableWord 16 0x6F05 = some (.ldImm 0xF 0x05) ∧
    decodeTableWord 16 0x7C81 = some (.addImm 0xC 0x81) := by decide

theorem test_decode_logic : decodeTableWord 16 0x8120 = some (.ldReg 1 2) ∧ decodeTableWord 16 0x8341 = some (.orReg 3 4) ∧
    decodeTableWord 16 0x8562 = some (.andReg 5 6) ∧ decodeTableWord 16 0x8783 = some (.xorReg 7 8) := by decide

theorem test_decode_arithmetic : decodeTableWord 16 0x8AB4 = some (.addReg 0xA 0xB) ∧
    decodeTableWord 16 0x8CD5 = some (.subReg 0xC 0xD) ∧ decodeTableWord 16 0x8EF6 = some (.shrReg 0xE 0xF) ∧
    decodeTableWord 16 0x8017 = some (.subnReg 0 1) ∧ decodeTableWord 16 0x823E = some (.shlReg 2 3) := by decide

theorem test_decode_index : decodeTableWord 16 0xA2F0 = some (.ldI 0x2F0) ∧ decodeTableWord 16 0xF51E = some (.addI 5) ∧
    decodeTableWord 16 0xF329 = some (.ldF 3) ∧ decodeTableWord 16 0xFA55 = some (.ldMemVx 0xA) ∧
    decodeTableWord 16 0xF765 = some (.ldVxMem 7) := by decide

theorem test_decode_display_random : decodeTableWord 16 0xD12F = some (.drw 1 2 0xF) ∧
    decodeTableWord 16 0xC30F = some (.rnd 3 0x0F) ∧ decodeTableWord 16 0xF533 = some (.ldB 5) := by decide

theorem test_decode_timers_keys : decodeTableWord 16 0xF407 = some (.ldVxDt 4) ∧ decodeTableWord 16 0xF20A = some (.ldVxK 2) ∧
    decodeTableWord 16 0xF415 = some (.ldDtVx 4) ∧ decodeTableWord 16 0xF218 = some (.ldStVx 2) ∧
    decodeTableWord 16 0xE19E = some (.skp 1) ∧ decodeTableWord 16 0xE3A1 = some (.sknp 3) := by decide

/-! ## Ill-formed words and images -/

/-- DEC-1 to DEC-9, one for each of the six sets of R69 at least: the opcode map has no row for the word. -/
theorem test_illegal_words_not_well_formed :
    legalWord 0x0000 = false ∧ legalWord 0x0123 = false ∧ legalWord 0x00E1 = false ∧ legalWord 0x5121 = false ∧
    legalWord 0x8128 = false ∧ legalWord 0x812F = false ∧ legalWord 0x9121 = false ∧ legalWord 0xE19F = false ∧
    legalWord 0xF100 = false := by decide

/-- DEC-1 to DEC-9: the decoder rejects the same words by name. -/
theorem test_illegal_words_rejected :
    decodeWord 0x0000 = .error (.unknown 0x0000) ∧ decodeWord 0x0123 = .error (.unknown 0x0123) ∧
    decodeWord 0x00E1 = .error (.unknown 0x00E1) ∧ decodeWord 0x5121 = .error (.unknown 0x5121) ∧
    decodeWord 0x8128 = .error (.unknown 0x8128) ∧ decodeWord 0x812F = .error (.unknown 0x812F) ∧
    decodeWord 0x9121 = .error (.unknown 0x9121) ∧ decodeWord 0xE19F = .error (.unknown 0xE19F) ∧
    decodeWord 0xF100 = .error (.unknown 0xF100) := by decide

/-- R64: an instruction takes two bytes, and fewer are none. -/
theorem test_truncated_bytes_rejected : decode [] = .error .truncated ∧ decode [0x12] = .error .truncated := by decide

/-- HST-7: an image with depth 17 is not valid. -/
theorem test_image_too_deep : ({ fullImage with depth := 17, stack := List.replicate 17 0 } : Image).valid = false := by
  simp [Image.valid, stackDepth]

/-- R161: a version tag that does not match. -/
theorem test_image_wrong_tag : ({ fullImage with tag := Config.versionTag + 1 } : Image).valid = false := by
  simp [Image.valid]

/-- R161: a truncated image, in each of the four lists it holds. -/
theorem test_image_truncated :
    ({ fullImage with mem := List.replicate 4095 0 } : Image).complete = false ∧
    ({ fullImage with v := List.replicate 15 0 } : Image).complete = false ∧
    ({ fullImage with stack := List.replicate 15 0 } : Image).complete = false ∧
    ({ fullImage with disp := List.replicate 2047 true } : Image).complete = false := by
  refine ⟨?_, ?_, ?_, ?_⟩ <;> simp [Image.complete, fullImage, memSize, -List.reduceReplicate]

/-- R161: a value that does not fit its width, in each element of the image. -/
theorem test_image_value_too_wide :
    ({ fullImage with mem := [256] } : Image).inWidth = false ∧ ({ fullImage with v := [256] } : Image).inWidth = false ∧
    ({ fullImage with stack := [65536] } : Image).inWidth = false ∧ ({ fullImage with i := 65536 } : Image).inWidth = false ∧
    ({ fullImage with pc := 65536 } : Image).inWidth = false ∧ ({ fullImage with dt := 256 } : Image).inWidth = false ∧
    ({ fullImage with st := 256 } : Image).inWidth = false := by
  refine ⟨?_, ?_, ?_, ?_, ?_, ?_, ?_⟩ <;> simp [Image.inWidth, allFit]

/-! ## Arithmetic, logic and shifts -/

/-- ALU-1. -/
theorem test_addImm : after (run 0x7301 ((State.reset.setReg 3 0xFF).setReg vf 0x55))
    (fun t => t.reg 3 == 0x00 && t.reg vf == 0x55 && t.pc == 0x202) = true := by decide

/-- IMM-2. -/
theorem test_ldImm : after (run 0x6FFF (State.reset.setReg vf 1)) (fun t => t.reg vf == 0xFF && t.pc == 0x202) = true := by
  decide

/-- ALU-3. -/
theorem test_ldReg : after (run 0x8F00 (two 0x42 0)) (fun t => t.reg vf == 0x42 && t.pc == 0x202) = true := by decide

/-- ALU-4: the result. -/
theorem test_orReg : after (run 0x8011 (two 0x0F 0xF0)) (fun t => t.reg 0 == 0xFF && t.pc == 0x202) = true := by decide

/-- ALU-4: VF under the two values of `LOGIC_VF_RESET`. -/
theorem test_logic_flag : after (logicOp true 0 0xFF (State.reset.setReg vf 7)) (fun t => t.reg vf == 0) = true ∧
    after (logicOp false 0 0xFF (State.reset.setReg vf 7)) (fun t => t.reg vf == 7) = true := by decide

/-- ALU-5: the result. -/
theorem test_andReg : after (run 0x8012 (two 0x3C 0x0F)) (fun t => t.reg 0 == 0x0C) = true := by decide

/-- ALU-6. -/
theorem test_xorReg : after (run 0x8443 (State.reset.setReg 4 0xAA)) (fun t => t.reg 4 == 0) = true := by decide

/-- W2a. -/
theorem test_addReg : after (run 0x8014 (two 0xC8 0x64)) (fun t => t.reg 0 == 0x2C && t.reg vf == 1 && t.pc == 0x202) = true := by
  decide

/-- ALU-10: the flag is what remains in VF. -/
theorem test_addReg_vf : after (run 0x8F14 ((State.reset.setReg vf 0x80).setReg 1 0x90)) (fun t => t.reg vf == 1) = true := by
  decide

/-- W2c. -/
theorem test_subReg : after (run 0x8015 (two 0x05 0x0A)) (fun t => t.reg 0 == 0xFB && t.reg vf == 0) = true := by decide

/-- ALU-12. -/
theorem test_subReg_equal : after (run 0x8015 (two 0x05 0x05)) (fun t => t.reg 0 == 0 && t.reg vf == 1) = true := by decide

/-- ALU-16. -/
theorem test_subnReg : after (run 0x8017 (two 0x0A 0x05)) (fun t => t.reg 0 == 0xFB && t.reg vf == 0) = true := by decide

/-- ALU-19: both values of `SHIFT_SOURCE`. -/
theorem test_shiftRight :
    after (shiftRight .vx 0 1 (two 0x05 0x80)) (fun t => t.reg 0 == 0x02 && t.reg vf == 1 && t.reg 1 == 0x80) = true ∧
    after (shiftRight .vy 0 1 (two 0x05 0x80)) (fun t => t.reg 0 == 0x40 && t.reg vf == 0 && t.reg 1 == 0x80) = true := by
  decide

/-- ALU-23: both values of `SHIFT_SOURCE`. -/
theorem test_shiftLeft :
    after (shiftLeft .vx 0 1 (two 0x40 0xC0)) (fun t => t.reg 0 == 0x80 && t.reg vf == 0) = true ∧
    after (shiftLeft .vy 0 1 (two 0x40 0xC0)) (fun t => t.reg 0 == 0x80 && t.reg vf == 1) = true := by decide

/-- ALU-20: either value of the switch gives the same, the two operands being one register. -/
theorem test_shrReg_vf : ∀ src : ShiftSource, after (shiftRight src vf vf (State.reset.setReg vf 3))
    (fun t => t.reg vf == 1 && t.pc == 0x202) = true := by
  intro src
  cases src <;> decide

/-- ALU-21. -/
theorem test_shlReg_same : ∀ src : ShiftSource, after (shiftLeft src 1 1 (two 0 0x80))
    (fun t => t.reg 1 == 0 && t.reg vf == 1 && t.pc == 0x202) = true := by
  intro src
  cases src <;> decide

/-! ## Skips, jumps and the stack -/

/-- SKP-1, SKP-2. -/
theorem test_seImm : after (run 0x312A (two 0 0x2A)) (fun t => t.pc == 0x204) = true ∧
    after (run 0x312A (two 0 0x2B)) (fun t => t.pc == 0x202) = true := by decide

/-- SKP-3, SKP-4. -/
theorem test_sneImm : after (run 0x412A (two 0 0x2A)) (fun t => t.pc == 0x202) = true ∧
    after (run 0x412A (two 0 0)) (fun t => t.pc == 0x204) = true := by decide

/-- SKP-5, SKP-6. -/
theorem test_seReg : after (run 0x5120 ((two 0 7).setReg 2 7)) (fun t => t.pc == 0x204) = true ∧
    after (run 0x5110 (two 0 7)) (fun t => t.pc == 0x204) = true := by decide

/-- SKP-7, SKP-8. -/
theorem test_sneReg : after (run 0x9120 ((two 0 7).setReg 2 8)) (fun t => t.pc == 0x204) = true ∧
    after (run 0x9110 (two 0 7)) (fun t => t.pc == 0x202) = true := by decide

/-- SKP-10, its first tick. -/
theorem test_skip_beyond_memory : after (run 0x3000 (atPc 0xFFE)) (fun t => t.pc == 0x1002 && t.fault == none) = true := by
  decide

/-- JMP-3. -/
theorem test_jp : after (run 0x1301 State.reset) (fun t => t.pc == 0x301) = true := by decide

/-- JMP-10. -/
theorem test_jpV0 : after (run 0xBFFF (two 0xFF 0)) (fun t => t.pc == 0x10FE) = true := by decide

/-- JMP-8. -/
theorem test_call : after (run 0x2300 (deep 15))
    (fun t => t.depth == 16 && t.stack.getLast? == some 0x202 && t.pc == 0x300) = true := by decide

/-- JMP-7. -/
theorem test_call_overflow : after (run 0x2300 (deep 16))
    (fun t => t.fault == some (.stackOverflow 0x200) && t.depth == 16 && t.pc == 0x200) = true := by decide

/-- JMP-5. -/
theorem test_ret : after (run 0x00EE ((deep 1).setPc 0x300)) (fun t => t.stack == [] && t.pc == 0x202) = true := by decide

/-- JMP-6. -/
theorem test_ret_underflow : after (run 0x00EE State.reset)
    (fun t => t.faultStatus == (3, 0x200) && t.pc == 0x200) = true := by decide

/-! ## Memory and the index register -/

/-- MEM-1. -/
theorem test_ldI : after (run 0xA2F0 State.reset) (fun t => t.i == 0x2F0 && t.pc == 0x202) = true := by decide

/-- MEM-3. -/
theorem test_addI : after (run 0xF01E ((atI 0xFFF).setReg 0 1)) (fun t => t.i == 0x1000 && t.reg vf == 0) = true := by decide

/-- MEM-4. -/
theorem test_addI_wraps : after (run 0xF01E ((atI 0xFFFF).setReg 0 1)) (fun t => t.i == 0) = true := by decide

/-- MEM-6. -/
theorem test_ldF : after (run 0xF329 (State.reset.setReg 3 0x1A)) (fun t => t.i == 0x32) = true := by decide

/-- MEM-8: the bytes, and I under both values of `MEM_I_INCREMENT`. -/
theorem test_ldMemVx :
    after (storeRegs true 2 (((atI 0x300).setReg 0 1).setReg 2 3)) (fun t => t.i == 0x303 && Memory.readBytes t.mem 0x300 4 == [1, 0, 3, 0]) = true ∧
    after (storeRegs false 2 (((atI 0x300).setReg 0 1).setReg 2 3)) (fun t => t.i == 0x300 && Memory.readBytes t.mem 0x300 4 == [1, 0, 3, 0]) = true := by
  decide

/-- MEM-10. -/
theorem test_ldMemVx_fault : after (run 0xFF55 ((atI 0xFF1).setReg 0 9))
    (fun t => t.fault == some (.outOfBoundsMemory 0x1000) && Memory.read t.mem 0xFF1 == 0 && t.pc == 0x200) = true := by
  decide

/-- MEM-13, with both values of `MEM_I_INCREMENT`. -/
theorem test_ldVxMem :
    after (loadRegs true 1 (sprite 0xAB 0xCD)) (fun t => t.reg 0 == 0xAB && t.reg 1 == 0xCD && t.i == 0x302) = true ∧
    after (loadRegs false 1 (sprite 0xAB 0xCD)) (fun t => t.reg 0 == 0xAB && t.reg 1 == 0xCD && t.i == 0x300) = true := by
  decide

/-- DEC-10: V0..VF loaded from the font, so VF holds its byte 0x00F. -/
theorem test_ldVxMem_font : after (run 0xFF65 State.reset)
    (fun t => t.reg vf == 0xF0 && t.reg 1 == 0x90 && t.pc == 0x202) = true := by decide

/-- BCD-1. -/
theorem test_ldB : after (run 0xF533 ((atI 0x300).setReg 5 0x9C))
    (fun t => Memory.readBytes t.mem 0x300 3 == [1, 5, 6] && t.i == 0x300) = true := by decide

/-- BCD-7. -/
theorem test_ldB_fault : after (run 0xF533 (atI 0xFFE))
    (fun t => t.fault == some (.outOfBoundsMemory 0x1000) && t.pc == 0x200) = true := by decide

/-- MEM-15, its first tick: the word at 0x202 is now a jump to itself. -/
theorem test_store_code : after (run 0xF155 ((atI 0x202).setReg 0 0x12 |>.setReg 1 0x02))
    (fun t => Memory.readBytes t.mem 0x202 2 == [0x12, 0x02] && t.pc == 0x202) = true := by decide

/-! ## Display -/

/-- DRW-1, its corners and its hole. -/
theorem test_drw : after (run 0xD015 State.reset) (fun t => Display.pixel t.disp 0 0 && Display.pixel t.disp 3 4 &&
    !Display.pixel t.disp 1 1 && !Display.pixel t.disp 4 0 && t.reg vf == 0 && t.pc == 0x202) = true := by decide

/-- DRW-3 and DRW-4 together: both edges wrap. -/
theorem test_drw_wraps : after (run 0xD012 ((sprite 0xFF 0x80).setReg 0 0x3E |>.setReg 1 0x1F)) (fun t =>
    Display.pixel t.disp 62 31 && Display.pixel t.disp 5 31 && Display.pixel t.disp 62 0 && !Display.pixel t.disp 6 31) = true := by
  decide

/-- DRW-9. -/
theorem test_drw_collides : after (drawSprite 0 1 1 ((sprite 0xC0 0).setDisp (Display.flip Display.clear 0 0)))
    (fun t => !Display.pixel t.disp 0 0 && Display.pixel t.disp 1 0 && t.reg vf == 1) = true := by decide

/-- DRW-6. -/
theorem test_drw_no_rows : after (run 0xD010 ((atI 0xFFFF).setReg vf 1)) (fun t => t.reg vf == 0 && t.fault == none) = true := by
  decide

/-- DRW-12. -/
theorem test_cls : after (run 0x00E0 ((State.reset.setDisp (Display.flip Display.clear 3 1)).setReg vf 5))
    (fun t => !Display.pixel t.disp 3 1 && t.reg vf == 5) = true := by decide

/-! ## Timers, keys and the random byte -/

/-- TIM-1. -/
theorem test_ldDtVx : after (run 0xF415 (State.reset.setReg 4 0x3C)) (fun t => t.dt == 0x3C && t.pc == 0x202) = true := by decide

/-- TIM-2. -/
theorem test_ldVxDt : after (run 0xF407 (State.reset.setDt 0x3C)) (fun t => t.reg 4 == 0x3C && t.dt == 0x3C) = true := by decide

/-- TIM-3. -/
theorem test_ldStVx : after (run 0xF218 (State.reset.setReg 2 1)) (fun t => t.st == 1 && t.soundActive) = true := by decide

/-- TIM-5 with the latch of TIM-6. -/
theorem test_updateTimers : after (step ((faulted .updateTimers).setSt 2))
    (fun t => t.dt == 0 && t.st == 1 && t.faultStatus == (3, 0x300) && t.reply == some .done) = true := by decide

/-- KEY-3: the key of the low nibble. -/
theorem test_skp : after (run 0xE19E (held 0x20 (two 0 0x15))) (fun t => t.pc == 0x204) = true := by decide

/-- KEY-4, KEY-5. -/
theorem test_sknp : after (run 0xE1A1 (held 0 (two 0 5))) (fun t => t.pc == 0x204) = true ∧
    after (run 0xE1A1 (held 0x20 (two 0 5))) (fun t => t.pc == 0x202) = true := by decide

/-- KEY-6. -/
theorem test_ldVxK : after (run 0xF20A (held 0x208 State.reset))
    (fun t => t.reg 2 == 3 && t.pc == 0x202 && t.keys == 0) = true := by decide

/-- KEY-7. -/
theorem test_ldVxK_waits : after (run 0xF20A (held 0 State.reset)) (fun t => t.reg 2 == 0 && t.pc == 0x200) = true := by decide

/-- RND-2. -/
theorem test_rnd_zero : ∃ t, run 0xC300 State.reset = .next t ∧ t.reg 3 = 0 ∧ t.pc = 0x202 :=
  ⟨_, rfl, BitVec.and_zero, rfl⟩

/-! ## The cycle and the host -/

/-- W5a, W5b, W5c. -/
theorem test_fetch_bounds :
    after (step (atPc 0xFFF)) (fun t => t.reply == some (.fault (.outOfBoundsMemory 0x1000)) && t.pc == 0xFFF) = true ∧
    after (step (atPc 0x1000)) (fun t => t.reply == some (.fault (.outOfBoundsMemory 0x1000))) = true ∧
    after (step (atPc 0xFFFF)) (fun t => t.reply == some (.fault (.outOfBoundsMemory 0xFFFF))) = true := by decide

/-- W5d. -/
theorem test_fetch_last_word : after (run 0x1200 (atPc 0xFFE)) (fun t => t.pc == 0x200 && t.reply == some .ok) = true := by decide

/-- DEC-11. -/
theorem test_fetch_odd : after (run 0x6007 (atPc 0x201)) (fun t => t.reg 0 == 7 && t.pc == 0x203) = true := by decide

/-- HST-1. -/
theorem test_power_on_tick : after (step State.reset) (fun t => t.reply == some (.fault (.unknownOpcode 0)) && t.pc == 0x200) = true := by
  decide

/-- HST-5. -/
theorem test_loadRom_clears_fault : after (step (faulted (.loadRom [0x60, 0x05, 0x12, 0x02])))
    (fun t => t.fault == none && t.reply == some .ok && Memory.readBytes t.mem 0x200 4 == [0x60, 0x05, 0x12, 0x02]) = true := by
  decide

/-- HST-6. -/
theorem test_stateRead_refused : after (step (faulted .stateRead)) (fun t => t.reply == some .readRefused) = true := by decide

/-- HST-10. -/
theorem test_fault_status : (faulted .stateRead).faultStatus = (3, 0x300) := by decide

/-- DRW-13: bit 67 is pixel (3, 1), and bit 3 is not. -/
theorem test_displayBuffer : (State.reset.setDisp (Display.flip Display.clear 3 1)).displayBuffer[67]? = some true ∧
    (State.reset.setDisp (Display.flip Display.clear 3 1)).displayBuffer[3]? = some false := by
  rw [State.getElem_displayBuffer _ (by decide), State.getElem_displayBuffer _ (by decide)]
  decide

/-! ## Witnesses: for every statement with hypotheses, values that meet them, clause by clause and at the boundaries -/

theorem witness_EveryLegalWordIsExactlyOneForm : legalWord 0x00E0 = true ∧ legalWord 0xFFFF = false ∧
    encodeWord .cls = 0x00E0 := by decide

theorem witness_FixedBitsSelectTheInstruction : ∃ r ∈ opcodeRows, r.covers 0xDFFF = true ∧
    decodeWord 0xDFFF = .ok (.drw 0xF 0xF 0xF) := ⟨⟨0xF000, 0xD000⟩, by decide, by decide, by decide⟩

theorem witness_StepRunsTheDecodedInstruction :
    (held 0 ((atPc 0xFFE).setMem (Memory.writeBytes [] 0xFFE [0x12, 0x00]))).nextCall = .tick 0 ∧
    (held 0 ((atPc 0xFFE).setMem (Memory.writeBytes [] 0xFFE [0x12, 0x00]))).fault = none ∧
    (atPc 0xFFE).pc.toNat + 1 < 4096 ∧
    decode [Memory.read (Memory.writeBytes [] 0xFFE [0x12, 0x00]) 0xFFE,
      Memory.read (Memory.writeBytes [] 0xFFE [0x12, 0x00]) 0xFFF] = .ok (.jp 0x200, []) := by decide

theorem witness_StepRunsTheDecodedInstruction_keys : (calling (.tick 0x8001)).nextCall = .tick 0x8001 := by decide

/-- The reply clauses: a step that ends with no fault, and one that ends with a fault latched. -/
theorem witness_StepRunsTheDecodedInstruction_replies :
    (∃ t, exec (.jp 0x200) State.reset = .next t ∧ t.fault = none) ∧
    (∃ t, exec .ret State.reset = .next t ∧ t.fault = some (.stackUnderflow 0x200)) := ⟨⟨_, rfl, rfl⟩, ⟨_, rfl, rfl⟩⟩

theorem witness_FetchReadsBigEndianOrFaults : State.reset.fault = none ∧ (atPc 0xFFE).pc.toNat ≤ 0xFFE ∧
    0xFFF ≤ (atPc 0xFFF).pc.toNat ∧ 0xFFF ≤ (atPc 0x1000).pc.toNat ∧ 0xFFF ≤ (atPc 0xFFFF).pc.toNat ∧
    (held 1 (atPc 0xFFE)).nextCall = .tick 1 ∧ (held 1 (atPc 0xFFF)).nextCall = .tick 1 := by decide

theorem witness_IllegalWordRaisesUnknownOpcode :
    State.reset.fault = none ∧ fetch State.reset = .ok 0x0000 ∧ legalWord 0x0000 = false ∧
    (held 1 State.reset).nextCall = .tick 1 := by decide

theorem witness_LatchedFaultStaysUntilTheHostClearsIt : (faulted (.tick 1)).fault = some (.stackUnderflow 0x300) ∧
    (faulted (.tick 1)).nextCall = .tick 1 := by decide

theorem witness_LatchedFaultStaysUntilTheHostClearsIt_load :
    ∃ t, step (faulted (.loadRom [])) = .next t ∧ t.fault ≠ some (.stackUnderflow 0x300) := ⟨_, rfl, by decide⟩

theorem witness_RaisedFaultWritesOnlyTheLatch :
    ∃ t, State.reset.fault = none ∧ tick State.reset = .next t ∧ t.fault ≠ none := ⟨_, rfl, rfl, by decide⟩

/-- The step clauses: a tick that raises a fault, one that raises none, and one that finds a fault latched. -/
theorem witness_RaisedFaultWritesOnlyTheLatch_step :
    (∃ t, (held 1 State.reset).nextCall = .tick 1 ∧ (held 1 State.reset).fault = none ∧
      step (held 1 State.reset) = .next t ∧ t.fault = some (.unknownOpcode 0)) ∧
    (∃ t, step ((held 1 State.reset).withFetchWord 16 0x1200) = .next t ∧ t.fault = none) ∧
    (∃ t, step (faulted (.tick 1)) = .next t ∧ t.fault = some (.stackUnderflow 0x300)) :=
  ⟨⟨_, rfl, rfl, rfl, rfl⟩, ⟨_, rfl, rfl⟩, ⟨_, rfl, rfl⟩⟩

theorem witness_FaultStatusGivesCodeAndInfo : State.reset.fault = none ∧ fetch State.reset = .ok 0x0000 ∧
    legalWord 0x0000 = false ∧ 16 ≤ (deep 16).depth ∧ State.reset.depth = 0 ∧
    4096 ≤ (atPc 0xFFF).pc.toNat + 1 ∧ 4096 ≤ (atPc 0x1000).pc.toNat + 1 ∧
    0 < indexedBytes (.ldB 0) ∧ 4096 < (atI 0xFFE).i.toNat + indexedBytes (.ldB 0) := by decide

theorem witness_RangeIsCheckedBeforeAnyWrite :
    0 < indexedBytes (.drw 0 0 1) ∧ 4096 < (atI 0x1000).i.toNat + indexedBytes (.drw 0 0 1) ∧
    indexedBytes (.drw 0 0 0) = 0 ∧ (atI 0xFF0).i.toNat + indexedBytes (.ldMemVx 0xF) ≤ 4096 := by decide

theorem witness_RangeIsCheckedBeforeAnyWrite_completes :
    (∀ nnn, Instr.ldMemVx 0xF ≠ .call nnn) ∧ Instr.ldMemVx 0xF ≠ .ret := ⟨nofun, by decide⟩

theorem witness_OnlyTheNamedInstructionsWriteEachPart_timers :
    (∃ t, exec (.ldDtVx 0) (two 1 0) = .next t ∧ t.dt ≠ (two 1 0).dt) ∧
    (∃ t, exec (.ldStVx 0) (two 1 0) = .next t ∧ t.st ≠ (two 1 0).st) := ⟨⟨_, rfl, by decide⟩, ⟨_, rfl, by decide⟩⟩

theorem witness_OnlyTheNamedInstructionsWriteEachPart_display :
    ∃ t, exec (.drw 0 1 5) State.reset = .next t ∧ t.disp ≠ State.reset.disp := ⟨_, rfl, by decide⟩

theorem witness_OnlyTheNamedInstructionsWriteEachPart_stack :
    ∃ t, exec (.call 0x300) (deep 15) = .next t ∧ t.stack ≠ (deep 15).stack := ⟨_, rfl, by decide⟩

theorem witness_OnlyTheNamedInstructionsWriteEachPart_memory :
    ∃ t, exec (.ldB 0) ((atI 0xFFD).setReg 0 0xFF) = .next t ∧ t.mem ≠ (atI 0xFFD).mem := ⟨_, rfl, by decide⟩

theorem witness_OnlyTheNamedInstructionsWriteEachPart_index :
    ∃ t, exec (.ldI 0xFFF) State.reset = .next t ∧ t.i ≠ State.reset.i := ⟨_, rfl, by decide⟩

theorem witness_OnlyTheNamedInstructionsWriteEachPart_draws :
    ∃ t, exec (.rnd 0 0xFF) State.reset = .next t ∧ t.draws ≠ State.reset.draws := ⟨_, rfl, by decide⟩

theorem witness_OnlyKeyInstructionsReadTheKeys : ¬ readsKeys .cls ∧ ∃ t, exec .cls State.reset = .next t :=
  ⟨id, _, rfl⟩

theorem witness_OnlyKeyInstructionsReadTheKeys_port : ∃ t, (held 0x8001 State.reset).nextCall = .tick 0x8001 ∧
    step (held 0x8001 State.reset) = .next t := ⟨_, rfl, rfl⟩

theorem witness_IdleMachineIsOneOfThree_jump :
    State.reset.fault = none ∧ decodeWord 0x1200 = .ok (.jp 0x200) ∧ (0x200#12).toNat = State.reset.pc.toNat ∧
    fetch (State.reset.setMem (Memory.writeBytes [] 0x200 [0x12, 0x00])) = .ok 0x1200 := by decide

theorem witness_IdleMachineIsOneOfThree_wait : decodeWord 0xF00A = .ok (.ldVxK 0) ∧
    (∀ k < 16, State.reset.keys.getLsbD k = false) ∧
    fetch (State.reset.setMem (Memory.writeBytes [] 0x200 [0xF0, 0x0A])) = .ok 0xF00A := by decide

theorem witness_IdleMachineIsOneOfThree_jumpV0 : decodeWord 0xB1FF = .ok (.jpV0 0x1FF) ∧
    ((two 1 0).reg 0).toNat + (0x1FF#12).toNat = (two 1 0).pc.toNat ∧
    fetch ((two 1 0).setMem (Memory.writeBytes [] 0x200 [0xB1, 0xFF])) = .ok 0xB1FF := by decide

theorem witness_LogicIsBitwiseAndClearsVfByTheSwitch :
    (Instr.xorReg 0 vf = .orReg 0 vf ∧ xor = or) ∨ (Instr.xorReg 0 vf = .andReg 0 vf ∧ xor = and) ∨
      (Instr.xorReg 0 vf = .xorReg 0 vf ∧ xor = xor) := .inr (.inr ⟨rfl, rfl⟩)

/-- The result clauses of ADD, SUB, SUBN, SHR, SHL and the logic group ask for a destination other than VF. -/
theorem witness_result_not_in_vf : (0x0#4 : Reg) ≠ vf ∧ (0xE#4 : Reg) ≠ vf := by decide

theorem witness_SkipsCompareTwoRegisters :
    (0xF#4 : Nibble) ≠ 0 ∧ (0x512F#16 : Word) = 0x5#4 ++ 0x1#4 ++ 0x2#4 ++ 0xF#4 ∧
    (0x9121#16 : Word) = 0x9#4 ++ 0x1#4 ++ 0x2#4 ++ 0x1#4 := by decide

theorem witness_CallPushesTheNextAddressOrOverflows : (deep 15).depth < 16 ∧ 16 ≤ (deep 16).depth := by decide

theorem witness_ReturnPopsThePcOrUnderflows : (deep 1).stack = [] ++ [0x202] ∧
    (deep 16).stack = List.replicate 15 0x202 ++ [0x202] ∧ State.reset.depth = 0 := by decide

theorem witness_ReturnUndoesCall : State.reset.depth < 16 ∧ (deep 15).depth < 16 := by decide

theorem witness_StoreRegistersWritesTheRangeAtI : (atI 0xFF0).i.toNat + (0xF#4).toNat < 4096 ∧
    4096 ≤ (atI 0xFF1).i.toNat + (0xF#4).toNat ∧ 4096 ≤ (atI 0xFFFF).i.toNat + (0x0#4).toNat := by decide

theorem witness_LoadRegistersReadsTheRangeAtI : (atI 0xFFF).i.toNat + (0x0#4).toNat < 4096 ∧
    4096 ≤ (atI 0xFFF).i.toNat + (0x1#4).toNat ∧ 4096 ≤ (atI 0x1000).i.toNat + (0x0#4).toNat := by decide

theorem witness_DecimalStoreWritesThreeDigits : (atI 0xFFD).i.toNat + 2 < 4096 ∧ 4096 ≤ (atI 0xFFE).i.toNat + 2 ∧
    4096 ≤ (atI 0xFFFF).i.toNat + 2 := by decide

theorem witness_StoredWordIsFetchedNext : 1 ≤ (0x1#4).toNat ∧ (atI 0x202).i.toNat = (atI 0x202).pc.toNat + 2 ∧
    (atI 0x202).i.toNat + (0x1#4).toNat < 4096 := by decide

theorem witness_StoredRegistersLoadBack : (atI 0xFF0).i.toNat + (0xF#4).toNat < 4096 ∧
    (atI 0xFFF).i.toNat + (0x0#4).toNat < 4096 := by decide

theorem witness_DrawInvertsTheSpritePixelsAndDetectsCollision : (0 : Nibble) = 0 ∧
    (atI 0xFF1).i.toNat + (0xF#4).toNat ≤ 4096 ∧ (0x5#4 : Nibble) ≠ 0 ∧ 4096 < (atI 0xFFC).i.toNat + (0x5#4).toNat ∧
    4096 < (atI 0xFFFF).i.toNat + (0x1#4).toNat := by decide

/-- DRW-9 and DRW-1: the two collision clauses, a set pixel erased and none erased. -/
theorem witness_DrawInvertsTheSpritePixelsAndDetectsCollision_pixels :
    Display.pixel (Display.flip Display.clear 0 0) 0 0 = true ∧
    Display.pixel ((sprite 0xC0 0).setDisp (Display.flip Display.clear 0 0) |>.drawn 0 1 1).1 0 0 = false ∧
    (∀ px py, Display.pixel State.reset.disp px py = true → Display.pixel (State.reset.drawn 0 1 5).1 px py = true) :=
  ⟨by decide, by decide, fun px py h => by simp [Display.pixel, State.reset] at h⟩

theorem witness_DrawingTwiceErasesAndCollides : (0x0#4 : Reg) ≠ vf ∧ (0x1#4 : Reg) ≠ vf ∧
    State.reset.i.toNat + (0x5#4).toNat ≤ 4096 ∧ (∀ px py, Display.pixel State.reset.disp px py = false) :=
  ⟨by decide, by decide, by decide, fun px py => by simp [Display.pixel, State.reset]⟩

theorem witness_TimerInstructionsCopyTheByte : (State.reset.setReg 2 1).reg 2 = 1 ∧ (two 0 0).reg 0 = 0 := by decide

theorem witness_UpdateTimersCountsDownEachTimer : (calling .updateTimers).nextCall = .updateTimers ∧
    ((faulted .updateTimers).setDt 255).nextCall = .updateTimers := by decide

theorem witness_WaitForKeyTakesTheLowestKey :
    ((State.reset.setKeys 0x208).keys.getLsbD 3 = true ∧ ∀ j < 3, (State.reset.setKeys 0x208).keys.getLsbD j = false) ∧
    ((State.reset.setKeys 0x8000).keys.getLsbD 15 = true ∧ ∀ j < 15, (State.reset.setKeys 0x8000).keys.getLsbD j = false) ∧
    (∀ k < 16, State.reset.keys.getLsbD k = false) := by decide

theorem witness_RandomByteIsMasked : (0xFF#8 : Byte) = 0xFF ∧ (0x00#8 : Byte) = 0 := by decide

theorem witness_DrawsAreNeverReused : ∃ t, step State.reset = .next t := ⟨_, rfl⟩

theorem witness_ResetHoldsTheSpecifiedValues : 79 < 80 ∧ 80 ≤ 80 ∧ 80 ≤ 0xFFF ∧ 0xFFF < 4096 := by decide

theorem witness_LoadRomInstallsTheImageAndResets :
    (calling (.loadRom (List.replicate 3584 1))).nextCall = .loadRom (List.replicate 3584 1) ∧
    (List.replicate 3584 (1 : Byte)).length ≤ 3584 := ⟨rfl, Nat.le_of_eq List.length_replicate⟩

theorem witness_LoadRomInstallsTheImageAndResets_clauses : 3583 < 3584 ∧ ¬ (0x200 ≤ 0x1FF ∧ 0x1FF < 0x200 + 3584) ∧
    80 ≤ 0x1FF ∧ ([] : List Byte).length ≤ 3584 := by decide

theorem witness_LoadRomInstallsTheFont : (List.replicate 3584 (1 : Byte)).length ≤ 3584 ∧ 15 < 16 ∧ 4 < 5 :=
  ⟨Nat.le_of_eq List.length_replicate, by decide, by decide⟩

theorem witness_OversizedRomIsRefusedWhole :
    (faulted (.loadRom (List.replicate 3585 1))).nextCall = .loadRom (List.replicate 3585 1) ∧
    3584 < (List.replicate 3585 (1 : Byte)).length := ⟨rfl, by rw [List.length_replicate]; decide⟩

/-- The 3584-byte and the empty image. -/
theorem witness_OversizedRomIsRefusedWhole_fits :
    (calling (.loadRom (List.replicate 3584 1))).nextCall = .loadRom (List.replicate 3584 1) ∧
    (List.replicate 3584 (1 : Byte)).length = 3584 ∧ (calling (.loadRom [])).nextCall = .loadRom [] ∧
    0x200 ≤ 0xFFF ∧ 0xFFF < 4096 := ⟨rfl, List.length_replicate, rfl, by decide, by decide⟩

theorem witness_InvalidImageIsRefusedWhole :
    (faulted (.stateWrite { fullImage with depth := 17 })).nextCall = .stateWrite { fullImage with depth := 17 } ∧
    ¬ ImageFits { fullImage with depth := 17 } := ⟨rfl, fun h => absurd h.depthFits (by decide : ¬ (17 ≤ 16))⟩

theorem witness_StateReadReturnsTheWholeState : (calling .stateRead).nextCall = .stateRead ∧
    (calling .stateRead).fault = none ∧ (faulted .stateRead).nextCall = .stateRead ∧
    (faulted .stateRead).fault ≠ none := by decide

/-- Two states that hold the same machine and differ in the model's own fields, and a read that completes. -/
theorem witness_StateReadReturnsTheWholeState_outputs : (calling .stateRead).machine = State.reset.machine ∧
    calling .stateRead ≠ State.reset ∧ ∃ t, step (calling .stateRead) = .next t := ⟨rfl, by decide, _, rfl⟩

theorem allBelow_replicate {b n k : Nat} (h : k < b) : allBelow b (List.replicate n k) := fun m hm => by
  rw [List.eq_of_mem_replicate hm]
  exact h

/-- HST-8 and HST-9: an image at the upper bound of every value is valid. -/
theorem witness_StateWriteInstallsAValidImage :
    (faulted (.stateWrite fullImage)).nextCall = .stateWrite fullImage ∧ ImageFits fullImage :=
  ⟨rfl, rfl, List.length_replicate, List.length_replicate, List.length_replicate, List.length_replicate,
    allBelow_replicate (by decide), allBelow_replicate (by decide), allBelow_replicate (by decide), by decide, by decide,
    by decide, by decide, by decide⟩

theorem witness_SnapshotRoundTrip : State.reset.Inv ∧ State.reset.fault = none := by decide

theorem witness_SnapshotRoundTrip_full_stack : (deep 16).Inv ∧ (deep 16).fault = none := by decide

theorem witness_EveryStepKeepsTheInvariant : State.reset.Inv ∧ ∃ t, step State.reset = .next t := ⟨by decide, _, rfl⟩

theorem witness_EveryStepKeepsTheInvariant_memory : (sprite 0xAB 0xCD).Inv := by decide

end Sys2Proof.Tests
end

section
/-! The opcode map, the decoder and the encoder agree (spec/30_encoding.md R67, R68, R75). Three facts carry the
obligations: decoding undoes encoding, encoding undoes decoding, and a word that a row covers decodes to an instruction
of that row. -/

namespace Sys2Proof

/-! ### A word is put together again from its fields, by the four layouts of R65 -/

section Layouts

variable {w : Word} {c : BitVec 4}

theorem layoutNNN_fields (hc : (fieldClass w).toNat = c.toNat) : layoutNNN c (fieldNNN w) = w := by
  apply BitVec.eq_of_toNat_eq
  rw [layoutNNN_toNat, ← hc, fieldClass_eq, fieldNNN_eq]
  omega

theorem layoutX_fields {sub : Byte} (hc : (fieldClass w).toNat = c.toNat) (hs : (fieldNN w).toNat = sub.toNat) :
    layoutX c (fieldX w) sub = w := by
  apply BitVec.eq_of_toNat_eq
  rw [layoutX_toNat, ← hc, ← hs, fieldClass_eq, fieldX_eq, fieldNN_eq]
  omega

theorem layoutXNN_fields (hc : (fieldClass w).toNat = c.toNat) : layoutXNN c (fieldX w) (fieldNN w) = w :=
  layoutX_fields hc rfl

theorem layoutXYN_fields {n : Nibble} (hc : (fieldClass w).toNat = c.toNat) (hn : (fieldN w).toNat = n.toNat) :
    layoutXYN c (fieldX w) (fieldY w) n = w := by
  apply BitVec.eq_of_toNat_eq
  rw [layoutXYN_toNat, ← hc, ← hn, fieldClass_eq, fieldX_eq, fieldY_eq, fieldN_eq]
  omega

end Layouts

/-! ### The fixed fields of a word that a row covers, for each of the masks of R67 -/

section Covers

variable {w b : Word}

theorem eq_of_covers_word (h : OpRow.covers ⟨0xFFFF, b⟩ w = true) : w = b :=
  BitVec.and_allOnes.symm.trans (eq_of_beq h)

theorem fieldClass_of_covers_class (h : OpRow.covers ⟨0xF000, b⟩ w = true) : fieldClass w = fieldClass b := by
  have hb : layoutXYN (fieldClass w) 0 0 0 = b := (and_classMask w).symm.trans (eq_of_beq h)
  simp [← hb]

theorem fields_of_covers_nibble (h : OpRow.covers ⟨0xF00F, b⟩ w = true) :
    fieldClass w = fieldClass b ∧ fieldN w = fieldN b := by
  have hb : layoutXYN (fieldClass w) 0 0 (fieldN w) = b := (and_nibbleMask w).symm.trans (eq_of_beq h)
  simp [← hb]

theorem fields_of_covers_byte (h : OpRow.covers ⟨0xF0FF, b⟩ w = true) :
    fieldClass w = fieldClass b ∧ fieldNN w = fieldNN b := by
  have hb : layoutX (fieldClass w) 0 (fieldNN w) = b := (and_byteMask w).symm.trans (eq_of_beq h)
  simp [← hb]

end Covers

/-! ### The rows and the instructions -/

/-- One instruction of each row, in the order of the opcode map (R67). -/
def rowForms : List Instr :=
  [.cls, .ret, .jp 0, .call 0, .seImm 0 0, .sneImm 0 0, .seReg 0 0, .ldImm 0 0, .addImm 0 0,
   .ldReg 0 0, .orReg 0 0, .andReg 0 0, .xorReg 0 0, .addReg 0 0, .subReg 0 0, .shrReg 0 0, .subnReg 0 0, .shlReg 0 0,
   .sneReg 0 0, .ldI 0, .jpV0 0, .rnd 0 0, .drw 0 0 0, .skp 0, .sknp 0,
   .ldVxDt 0, .ldVxK 0, .ldDtVx 0, .ldStVx 0, .addI 0, .ldF 0, .ldB 0, .ldMemVx 0, .ldVxMem 0]

theorem opcodeRows_eq_map_row : opcodeRows = rowForms.map Instr.row := rfl

theorem exists_row_eq {r : OpRow} (h : r ∈ opcodeRows) : ∃ i : Instr, i.row = r := by
  rw [opcodeRows_eq_map_row, List.mem_map] at h
  obtain ⟨i, -, hi⟩ := h
  exact ⟨i, hi⟩

/-- The row of every instruction is in the opcode map and covers the instruction's word. -/
theorem rowMatch (i : Instr) : Laws.RowMatch.Statement i := by
  cases i with
  | cls => exact Laws.RowMatch.cls
  | ret => exact Laws.RowMatch.ret
  | jp nnn => exact Laws.RowMatch.jp nnn
  | call nnn => exact Laws.RowMatch.call nnn
  | seImm x nn => exact Laws.RowMatch.seImm x nn
  | sneImm x nn => exact Laws.RowMatch.sneImm x nn
  | seReg x y => exact Laws.RowMatch.seReg x y
  | ldImm x nn => exact Laws.RowMatch.ldImm x nn
  | addImm x nn => exact Laws.RowMatch.addImm x nn
  | ldReg x y => exact Laws.RowMatch.ldReg x y
  | orReg x y => exact Laws.RowMatch.orReg x y
  | andReg x y => exact Laws.RowMatch.andReg x y
  | xorReg x y => exact Laws.RowMatch.xorReg x y
  | addReg x y => exact Laws.RowMatch.addReg x y
  | subReg x y => exact Laws.RowMatch.subReg x y
  | shrReg x y => exact Laws.RowMatch.shrReg x y
  | subnReg x y => exact Laws.RowMatch.subnReg x y
  | shlReg x y => exact Laws.RowMatch.shlReg x y
  | sneReg x y => exact Laws.RowMatch.sneReg x y
  | ldI nnn => exact Laws.RowMatch.ldI nnn
  | jpV0 nnn => exact Laws.RowMatch.jpV0 nnn
  | rnd x nn => exact Laws.RowMatch.rnd x nn
  | drw x y n => exact Laws.RowMatch.drw x y n
  | skp x => exact Laws.RowMatch.skp x
  | sknp x => exact Laws.RowMatch.sknp x
  | ldVxDt x => exact Laws.RowMatch.ldVxDt x
  | ldVxK x => exact Laws.RowMatch.ldVxK x
  | ldDtVx x => exact Laws.RowMatch.ldDtVx x
  | ldStVx x => exact Laws.RowMatch.ldStVx x
  | addI x => exact Laws.RowMatch.addI x
  | ldF x => exact Laws.RowMatch.ldF x
  | ldB x => exact Laws.RowMatch.ldB x
  | ldMemVx x => exact Laws.RowMatch.ldMemVx x
  | ldVxMem x => exact Laws.RowMatch.ldVxMem x

theorem legalWord_iff {w : Word} : legalWord w = true ↔ ∃ r ∈ opcodeRows, r.covers w = true := List.any_eq_true

theorem legalWord_encodeWord (i : Instr) : legalWord (encodeWord i) = true :=
  legalWord_iff.mpr ⟨i.row, rowMatch i⟩

/-! ### Decoding undoes encoding -/

theorem decodeWord_encodeWord (i : Instr) : decodeWord (encodeWord i) = .ok i := by
  cases i with
  | cls | ret => rfl
  | jp | call | ldI | jpV0 | seImm | sneImm | ldImm | addImm | rnd | drw => simp [encodeWord, decodeWord]
  | seReg | sneReg => simp [encodeWord, decodeWord, decodeIfZeroN]
  | ldReg | orReg | andReg | xorReg | addReg | subReg | shrReg | subnReg | shlReg =>
    simp [encodeWord, decodeWord, decodeClass8]
  | skp | sknp => simp [encodeWord, decodeWord, decodeClassE]
  | ldVxDt | ldVxK | ldDtVx | ldStVx | addI | ldF | ldB | ldMemVx | ldVxMem =>
    simp [encodeWord, decodeWord, decodeClassF]

/-! ### Encoding undoes decoding, first for each branch of the decoder's tree (R68) -/

section Sound

variable {w : Word} {i : Instr}

theorem encodeWord_of_decodeClass0 (h : decodeClass0 w = .ok i) : encodeWord i = w := by
  unfold decodeClass0 at h
  split_ifs at h with hcls hret
  · rw [hcls, ← Except.ok.inj h]; rfl
  · rw [hret, ← Except.ok.inj h]; rfl

theorem decodeIfZeroN_ok {j : Instr} (h : decodeIfZeroN w j = .ok i) : fieldN w = 0#4 ∧ j = i := by
  unfold decodeIfZeroN at h
  split_ifs at h with hn
  exact ⟨hn, Except.ok.inj h⟩

theorem encodeWord_of_decodeClass8 (hc : (fieldClass w).toNat = 0x8) (h : decodeClass8 w = .ok i) :
    encodeWord i = w := by
  unfold decodeClass8 at h
  split at h <;> cases h
  all_goals exact layoutXYN_fields hc ‹_›

theorem encodeWord_of_decodeClassE (hc : (fieldClass w).toNat = 0xE) (h : decodeClassE w = .ok i) :
    encodeWord i = w := by
  unfold decodeClassE at h
  split at h <;> cases h
  all_goals exact layoutX_fields hc ‹_›

theorem encodeWord_of_decodeClassF (hc : (fieldClass w).toNat = 0xF) (h : decodeClassF w = .ok i) :
    encodeWord i = w := by
  unfold decodeClassF at h
  split at h <;> cases h
  all_goals exact layoutX_fields hc ‹_›

theorem encodeWord_of_decodeWord (h : decodeWord w = .ok i) : encodeWord i = w := by
  unfold decodeWord at h
  split at h
  next => exact encodeWord_of_decodeClass0 h
  next hc => cases h; exact layoutNNN_fields hc
  next hc => cases h; exact layoutNNN_fields hc
  next hc => cases h; exact layoutXNN_fields hc
  next hc => cases h; exact layoutXNN_fields hc
  next hc => obtain ⟨hn, rfl⟩ := decodeIfZeroN_ok h; exact layoutXYN_fields hc (congrArg _ hn)
  next hc => cases h; exact layoutXNN_fields hc
  next hc => cases h; exact layoutXNN_fields hc
  next hc => exact encodeWord_of_decodeClass8 hc h
  next hc => obtain ⟨hn, rfl⟩ := decodeIfZeroN_ok h; exact layoutXYN_fields hc (congrArg _ hn)
  next hc => cases h; exact layoutNNN_fields hc
  next hc => cases h; exact layoutNNN_fields hc
  next hc => cases h; exact layoutXNN_fields hc
  next hc => cases h; exact layoutXYN_fields hc rfl
  next hc => exact encodeWord_of_decodeClassE hc h
  next hc => exact encodeWord_of_decodeClassF hc h
  next => cases h

end Sound

theorem decodeWord_eq_ok_iff {w : Word} {i : Instr} : decodeWord w = .ok i ↔ encodeWord i = w :=
  ⟨encodeWord_of_decodeWord, fun h => h ▸ decodeWord_encodeWord i⟩

/-! ### A covered word decodes to an instruction of the covering row -/

/-- The row of `i` fixes every field that the decoder looks at on its way to the kind of instruction `i` is. -/
theorem decodeWord_of_row_covers {w : Word} {i : Instr} (h : i.row.covers w = true) :
    ∃ j : Instr, decodeWord w = .ok j ∧ j.row = i.row := by
  cases i with
  | cls | ret =>
    obtain rfl := eq_of_covers_word h
    exact ⟨_, rfl, rfl⟩
  | jp | call | ldI | jpV0 | seImm | sneImm | ldImm | addImm | rnd | drw =>
    have hc := fieldClass_of_covers_class h
    rw [decodeWord, hc]
    exact ⟨_, rfl, rfl⟩
  | seReg | sneReg =>
    obtain ⟨hc, hn⟩ := fields_of_covers_nibble h
    rw [decodeWord, hc]
    exact ⟨_, if_pos hn, rfl⟩
  | ldReg | orReg | andReg | xorReg | addReg | subReg | shrReg | subnReg | shlReg =>
    obtain ⟨hc, hn⟩ := fields_of_covers_nibble h
    rw [decodeWord, hc, decodeClass8, hn]
    exact ⟨_, rfl, rfl⟩
  | skp | sknp =>
    obtain ⟨hc, hs⟩ := fields_of_covers_byte h
    rw [decodeWord, hc, decodeClassE, hs]
    exact ⟨_, rfl, rfl⟩
  | ldVxDt | ldVxK | ldDtVx | ldStVx | addI | ldF | ldB | ldMemVx | ldVxMem =>
    obtain ⟨hc, hs⟩ := fields_of_covers_byte h
    rw [decodeWord, hc, decodeClassF, hs]
    exact ⟨_, rfl, rfl⟩

theorem decodeWord_of_covers {w : Word} {r : OpRow} (hr : r ∈ opcodeRows) (h : r.covers w = true) :
    ∃ i : Instr, decodeWord w = .ok i ∧ i.row = r := by
  obtain ⟨i, rfl⟩ := exists_row_eq hr
  exact decodeWord_of_row_covers h

/-- Two rows that cover one word are both the row of the instruction the word decodes to. -/
theorem opcodeRows_disjoint {w : Word} {r r' : OpRow} (hr : r ∈ opcodeRows) (hr' : r' ∈ opcodeRows)
    (h : r.covers w = true) (h' : r'.covers w = true) : r = r' := by
  obtain ⟨i, hi, rfl⟩ := decodeWord_of_covers hr h
  obtain ⟨j, hj, rfl⟩ := decodeWord_of_covers hr' h'
  rw [Except.ok.inj (hi.symm.trans hj)]

/-! ### The obligations -/

/-- Settles O2: a form is the form of a word exactly when the word decodes to it, and every covered word decodes. -/
theorem everyLegalWordIsExactlyOneForm : Obligations.EveryLegalWordIsExactlyOneForm := by
  refine ⟨legalWord_encodeWord, fun w hw => ?_⟩
  obtain ⟨r, hr, hcov⟩ := legalWord_iff.mp hw
  obtain ⟨i, hi, -⟩ := decodeWord_of_covers hr hcov
  refine ⟨i, decodeWord_eq_ok_iff.mp hi, hi, fun j hj => ?_⟩
  exact Except.ok.inj ((decodeWord_eq_ok_iff.mpr hj).symm.trans hi)

/-- Settles O3: the rows are compared one by one; that they are disjoint comes from the decoder, which is a function. -/
theorem fixedBitsSelectTheInstruction : Obligations.FixedBitsSelectTheInstruction := by
  refine ⟨rfl, by decide, fun w => ⟨?disjoint, ?own_row, ?covered⟩⟩
  case disjoint => exact fun r hr r' hr' => opcodeRows_disjoint hr hr'
  case own_row =>
    intro i hi
    rw [← decodeWord_eq_ok_iff.mp hi]
    exact rowMatch i
  case covered => exact fun r hr => decodeWord_of_covers hr

end Sys2Proof
end

section
/-! The cycle (spec/40_cycle.md R76 to R78). Neither the latch nor the fetch depends on the key flags or on the calls to
come, so a step whose call is a tick stays on a latched fault, fetches, and rejects a word as the tick itself does; what
the step adds is the report. -/

namespace Sys2Proof.Machine

variable {s : State} {f : Fault}

/-! ### What a step does, by the host's call (R155) -/

theorem step_of_updateTimers (h : s.nextCall = .updateTimers) :
    step s = .next (answer (s.popCall.updateTimers, .done)) := by
  simp only [step, h, transact]

theorem step_of_stateRead (h : s.nextCall = .stateRead) :
    step s = .next (answer (s.popCall, s.popCall.stateRead)) := by
  simp only [step, h, transact]

/-- A tick that ends with a fault latched hands that fault to the host, and its flags leave the port (R34, R84). -/
theorem report_of_fault (h : s.fault = some f) :
    report (.next s) = .next ((s.setKeys 0).setReply (some (.fault f))) := by
  rw [report, tickReply_of_some s h, State.releaseKeys]

/-- The step of a tick on a faulted machine (R76). -/
theorem step_of_tick_of_fault {k : Keys} (hc : s.nextCall = .tick k) (hf : s.fault = some f) :
    step s = .next ((s.popCall.setKeys 0).setReply (some (.fault f))) := by
  have hf' : (s.popCall.setKeys k).fault = some f := hf
  rw [step_of_tick s hc, tick_of_fault _ hf', report_of_fault hf']
  rfl

/-- A tick that raises a fault writes the latch alone and hands the fault to the host (R79, R135). -/
theorem report_raise_setKeys (f : Fault) (s : State) (k : Keys) :
    report (raise f (s.setKeys k)) = .next (((s.setKeys 0).setFault (some f)).setReply (some (.fault f))) := by
  rw [raise_eq, report_of_fault (State.fault_setFault _ _)]
  rfl

/-! ### What a tick of an unfaulted machine does with the fetched word -/

/-- Taking the call and putting its flags on the port leaves the fetch as it was. -/
theorem fetch_popCall_setKeys (s : State) (k : Keys) : fetch (s.popCall.setKeys k) = fetch s :=
  fetch_congr rfl rfl

theorem step_of_tick_of_fetch {k : Keys} {op : Word} (hc : s.nextCall = .tick k) (hf : s.fault = none)
    (ho : fetch s = .ok op) : step s = report (runWord op (s.popCall.setKeys k)) := by
  have hf' : (s.popCall.setKeys k).fault = none := hf
  rw [step_of_tick s hc, tick_of_fetch _ hf' ((fetch_popCall_setKeys s k).trans ho)]

theorem step_of_tick_of_fetch_error {k : Keys} (hc : s.nextCall = .tick k) (hf : s.fault = none)
    (ho : fetch s = .error f) :
    step s = .next (((s.popCall.setKeys 0).setFault (some f)).setReply (some (.fault f))) := by
  have hf' : (s.popCall.setKeys k).fault = none := hf
  rw [step_of_tick s hc, tick_of_fetch_error _ hf' ((fetch_popCall_setKeys s k).trans ho), report_raise_setKeys]

theorem wordAt_toNat (m : Memory) (a : Nat) :
    (wordAt m a).toNat = (Memory.read m a).toNat * 256 + (Memory.read m (a + 1)).toNat :=
  wordOfBytes_toNat _ _

/-- A fetch with a byte outside the memory gives the lowest such address (R55, R77). -/
theorem fetch_of_outside (h : 0xFFF ≤ s.pc.toNat) :
    fetch s = .error (.outOfBoundsMemory (if 0x1000 ≤ s.pc.toNat then s.pc else 0x1000)) := by
  rw [fetch_of_lt s (by unfold memSize; omega), outOfRangeInfo_toNat]

/-- No instruction decodes from a word outside the opcode map, since encoding it would give back a word inside. -/
theorem decodeWord_of_illegal {op : Word} (h : legalWord op = false) : ∃ e, decodeWord op = .error e := by
  cases hd : decodeWord op with
  | error e => exact ⟨e, rfl⟩
  | ok i =>
    have hlegal : legalWord op = true := decodeWord_eq_ok_iff.mp hd ▸ legalWord_encodeWord i
    rw [h] at hlegal
    cases hlegal

theorem runWord_of_illegal {op : Word} (h : legalWord op = false) (s : State) :
    runWord op s = raise (.unknownOpcode op) s := by
  obtain ⟨_, he⟩ := decodeWord_of_illegal h
  exact runWord_error s he

/-! ### The obligations -/

/-- Settles O9, by cases on the call: `updateTimers` and `stateRead` keep the latch, and so does the tick. -/
theorem latchedFaultStaysUntilTheHostClearsIt : Obligations.LatchedFaultStaysUntilTheHostClearsIt := by
  intro s f hf
  refine ⟨fun k hc => step_of_tick_of_fault hc hf, fun t ht hne => ?_⟩
  cases hc : s.nextCall with
  | loadRom b => exact .inl ⟨b, rfl⟩
  | stateWrite img => exact .inr ⟨img, rfl⟩
  | tick k =>
    rw [step_of_tick_of_fault hc hf] at ht
    cases ht
    exact absurd hf hne
  | updateTimers =>
    rw [step_of_updateTimers hc] at ht
    cases ht
    exact absurd hf hne
  | stateRead =>
    rw [step_of_stateRead hc] at ht
    cases ht
    exact absurd hf hne

/-- Settles O7, by whether both bytes of the word are in memory. -/
theorem fetchReadsBigEndianOrFaults : Obligations.FetchReadsBigEndianOrFaults := by
  refine fun s hf => ⟨fun hpc => ?inside, ?outside⟩
  case inside =>
    have ho := fetch_of_le s (by unfold memSize; omega)
    exact ⟨_, ho, tick_of_fetch s hf ho, fun k hc => step_of_tick_of_fetch hc hf ho, wordAt_toNat _ _⟩
  case outside =>
    rintro hpc _ rfl
    have ho := fetch_of_outside hpc
    exact ⟨tick_of_fetch_error s hf ho, fun k hc => step_of_tick_of_fetch_error hc hf ho⟩

/-- Settles O8: such a word does not decode, whatever the state. -/
theorem illegalWordRaisesUnknownOpcode : Obligations.IllegalWordRaisesUnknownOpcode := by
  intro s op hf ho hop
  refine ⟨?_, fun k hc => ?_⟩
  · rw [tick_of_fetch s hf ho, runWord_of_illegal hop, raise_eq]
  · rw [step_of_tick_of_fetch hc hf ho, runWord_of_illegal hop, report_raise_setKeys]

end Sys2Proof.Machine
end

section
/-! Arithmetic, logic and shifts (spec/41_alu.md R85 to R96). Every instruction of the family ends in one of two forms, a
register write or a register write and then its flag (R86), followed by the advance. What each form does and leaves
unchanged is proved once; an obligation adds what its result and its flag are as numbers. -/

namespace Sys2Proof.Machine

variable {i : Instr} {s t : State} {x : Reg} {b f : Byte}

/-! ### The frame of a state that differs in registers and pc alone -/

theorem pcAdvanced_of_pc_eq (h : t.pc = s.pc + 2) : pcAdvanced s t := by
  rw [pcAdvanced, h, BitVec.toNat_add]
  rfl

theorem partsKept_setRegs_setPc (ps : List Part) (s : State) (v : Vector Byte 16) (w : Word) :
    partsKept ps s ((s.setRegs v).setPc w) := by
  intro p _
  cases p <;> simp [Part.same]

/-! ### The two forms of the family -/

/-- An instruction that writes one register and advances. -/
theorem exec_of_setReg (h : exec i s = .next (s.setReg x b).advance) :
    ∃ t, exec i s = .next t ∧ t.reg x = b ∧ pcAdvanced s t ∧ regsKept [x] s t ∧ partsKept [] s t := by
  refine ⟨_, h, by simp, pcAdvanced_of_pc_eq rfl, fun r hr => ?_, partsKept_setRegs_setPc [] s _ _⟩
  have hrx : r ≠ x := by simpa using hr
  simp [hrx]

/-- An instruction that writes a result and then its flag: with X = F the flag is what remains (R86). -/
theorem exec_of_flaggedOp (h : exec i s = flaggedOp x b f s) :
    ∃ t, exec i s = .next t ∧ (x ≠ vf → t.reg x = b) ∧ t.reg vf = f ∧
      pcAdvanced s t ∧ regsKept [x, vf] s t ∧ partsKept [] s t := by
  refine ⟨_, h, fun hx => ?_, ?_, pcAdvanced_of_pc_eq rfl, fun r hr => ?_, partsKept_setRegs_setPc [] s _ _⟩
  · simp [State.reg_setRegThenFlag, hx]
  · simp [State.reg_setRegThenFlag]
  · obtain ⟨hrx, hrf⟩ : r ≠ x ∧ r ≠ vf := by simpa using hr
    simp [State.reg_setRegThenFlag, hrx, hrf]

/-- OR, AND and XOR are of the second form, with what `LOGIC_VF_RESET` leaves in VF as the flag (R89). -/
theorem logicOp_eq_flaggedOp (clear : Bool) (x : Reg) (b : Byte) (s : State) :
    logicOp clear x b s = flaggedOp x b (logicFlag clear ((s.setReg x b).reg vf)) s := rfl

/-- An instruction of the logic group: VF is 0 under the switch, and otherwise as the result leaves it (R89). -/
theorem exec_of_logicOp {clear : Bool} (h : exec i s = logicOp clear x b s) :
    ∃ t, exec i s = .next t ∧ (x ≠ vf ∨ clear = false → t.reg x = b) ∧ (clear = true → t.reg vf = 0) ∧
      (clear = false → x ≠ vf → t.reg vf = s.reg vf) ∧
      pcAdvanced s t ∧ regsKept [x, vf] s t ∧ partsKept [] s t := by
  rw [logicOp_eq_flaggedOp] at h
  obtain ⟨t, ht, hx, hvf, hframe⟩ := exec_of_flaggedOp h
  refine ⟨t, ht, fun hkept => ?result, fun hc => ?cleared, fun hc hne => ?untouched, hframe⟩
  case result =>
    by_cases hxf : x = vf
    · have hc := hkept.resolve_left (not_not_intro hxf)
      simp [hxf, hvf, logicFlag, hc]
    · exact hx hxf
  case cleared => simp [hvf, logicFlag, hc]
  case untouched => simp [hvf, logicFlag, hc, hne.symm]

/-! ### The form of each instruction -/

theorem exec_addImm (x : Reg) (nn : Byte) (s : State) :
    exec (.addImm x nn) s = .next (s.setReg x (s.reg x + nn)).advance := rfl

theorem exec_ldReg (x y : Reg) (s : State) : exec (.ldReg x y) s = .next (s.setReg x (s.reg y)).advance := rfl

theorem exec_orReg (x y : Reg) (s : State) :
    exec (.orReg x y) s = logicOp Config.logicVfReset x (s.reg x ||| s.reg y) s := rfl

theorem exec_andReg (x y : Reg) (s : State) :
    exec (.andReg x y) s = logicOp Config.logicVfReset x (s.reg x &&& s.reg y) s := rfl

theorem exec_xorReg (x y : Reg) (s : State) :
    exec (.xorReg x y) s = logicOp Config.logicVfReset x (s.reg x ^^^ s.reg y) s := rfl

theorem exec_addReg (x y : Reg) (s : State) :
    exec (.addReg x y) s = flaggedOp x (s.reg x + s.reg y) (carryFlag (s.reg x) (s.reg y)) s := rfl

theorem exec_subReg (x y : Reg) (s : State) :
    exec (.subReg x y) s = flaggedOp x (s.reg x - s.reg y) (notBorrowFlag (s.reg x) (s.reg y)) s := rfl

theorem exec_subnReg (x y : Reg) (s : State) :
    exec (.subnReg x y) s = flaggedOp x (s.reg y - s.reg x) (notBorrowFlag (s.reg y) (s.reg x)) s := rfl

theorem exec_shrReg (x y : Reg) (s : State) :
    exec (.shrReg x y) s = flaggedOp x (shiftOperand Config.shiftSource x y s >>> 1)
      (shiftedOutRight (shiftOperand Config.shiftSource x y s)) s := rfl

theorem exec_shlReg (x y : Reg) (s : State) :
    exec (.shlReg x y) s = flaggedOp x (shiftOperand Config.shiftSource x y s <<< 1)
      (shiftedOutLeft (shiftOperand Config.shiftSource x y s)) s := rfl

/-! ### The operand of a shift, and the results as numbers -/

/-- Vy or Vx, as `SHIFT_SOURCE` says (R94, R96). -/
theorem shiftOperand_eq_ite (src : ShiftSource) (x y : Reg) (s : State) :
    shiftOperand src x y s = if src = .vy then s.reg y else s.reg x := by
  cases src <;> rfl

/-- The difference of two bytes wraps modulo 256, also below 0. -/
theorem toNat_sub_byte (a b : Byte) : ((a - b).toNat : Int) = (a.toNat - b.toNat : Int) % 256 := by
  have ha := a.isLt
  have hb := b.isLt
  rw [BitVec.toNat_sub]
  omega

theorem toNat_shiftRight_one_byte (a : Byte) : (a >>> 1).toNat = a.toNat / 2 := by
  rw [BitVec.toNat_ushiftRight, Nat.shiftRight_eq_div_pow, Nat.pow_one]

theorem toNat_shiftLeft_one_byte (a : Byte) : (a <<< 1).toNat = a.toNat * 2 % 256 := by
  rw [BitVec.toNat_shiftLeft, Nat.shiftLeft_eq, Nat.pow_one]

/-! ### The obligations -/

/-- Settles O20: the three instructions share the form `logicOp`, and differ in the bit operation alone. -/
theorem logicIsBitwiseAndClearsVfByTheSwitch : Obligations.LogicIsBitwiseAndClearsVfByTheSwitch := by
  refine fun x y s => ⟨decodeWord_encodeWord (.orReg x y), decodeWord_encodeWord (.andReg x y),
    decodeWord_encodeWord (.xorReg x y), fun i f hi => ?_⟩
  obtain ⟨b, hexec, hbits⟩ : ∃ b : Byte, exec i s = logicOp Config.logicVfReset x b s ∧
      ∀ k, b.getLsbD k = f ((s.reg x).getLsbD k) ((s.reg y).getLsbD k) := by
    obtain ⟨rfl, rfl⟩ | ⟨rfl, rfl⟩ | ⟨rfl, rfl⟩ := hi
    · exact ⟨_, exec_orReg x y s, fun _ => BitVec.getLsbD_or⟩
    · exact ⟨_, exec_andReg x y s, fun _ => BitVec.getLsbD_and⟩
    · exact ⟨_, exec_xorReg x y s, fun _ => BitVec.getLsbD_xor⟩
  obtain ⟨t, ht, hx, hvf⟩ := exec_of_logicOp hexec
  exact ⟨t, ht, fun h k _ => by rw [hx h, hbits], hvf⟩

/-- Settles O17: a register write, with the sum of bytes as its value. -/
theorem addImmediateWrapsWithoutCarry : Obligations.AddImmediateWrapsWithoutCarry := by
  refine fun x nn s => ⟨decodeWord_encodeWord (.addImm x nn), ?_⟩
  obtain ⟨t, ht, hx, hframe⟩ := exec_of_setReg (exec_addImm x nn s)
  exact ⟨t, ht, by rw [hx, BitVec.toNat_add], hframe⟩

/-- Settles O18: a register write, with the byte of Vy as its value. -/
theorem moveCopiesTheSourceRegister : Obligations.MoveCopiesTheSourceRegister :=
  fun x y s => ⟨decodeWord_encodeWord (.ldReg x y), exec_of_setReg (exec_ldReg x y s)⟩

/-- Settles O21: the sum of bytes wraps, and the flag compares the exact sum (`carryFlag_toNat`). -/
theorem addWrapsAndSetsTheCarry : Obligations.AddWrapsAndSetsTheCarry := by
  refine fun x y s => ⟨decodeWord_encodeWord (.addReg x y), ?_⟩
  obtain ⟨t, ht, hx, hvf, hframe⟩ := exec_of_flaggedOp (exec_addReg x y s)
  exact ⟨t, ht, fun h => by rw [hx h, BitVec.toNat_add], by rw [hvf, carryFlag_toNat], hframe⟩

/-- Settles O22: the difference wraps, and the flag compares the exact operands (`notBorrowFlag_toNat`). -/
theorem subtractWrapsAndSetsNotBorrow : Obligations.SubtractWrapsAndSetsNotBorrow := by
  refine fun x y s => ⟨decodeWord_encodeWord (.subReg x y), ?_⟩
  obtain ⟨t, ht, hx, hvf, hframe⟩ := exec_of_flaggedOp (exec_subReg x y s)
  exact ⟨t, ht, fun h => by rw [hx h, toNat_sub_byte], by rw [hvf, notBorrowFlag_toNat], hframe⟩

/-- Settles O23: as O22, with the operands the other way round. -/
theorem reverseSubtractWrapsAndSetsNotBorrow : Obligations.ReverseSubtractWrapsAndSetsNotBorrow := by
  refine fun x y s => ⟨decodeWord_encodeWord (.subnReg x y), ?_⟩
  obtain ⟨t, ht, hx, hvf, hframe⟩ := exec_of_flaggedOp (exec_subnReg x y s)
  exact ⟨t, ht, fun h => by rw [hx h, toNat_sub_byte], by rw [hvf, notBorrowFlag_toNat], hframe⟩

/-- Settles O24: the operand is the one `SHIFT_SOURCE` names (`shiftOperand_eq_ite`), whichever that is. -/
theorem shiftRightHalvesTheSwitchedOperand : Obligations.ShiftRightHalvesTheSwitchedOperand := by
  refine fun x y s => ⟨decodeWord_encodeWord (.shrReg x y), ?_⟩
  obtain ⟨t, ht, hx, hvf, hframe⟩ := exec_of_flaggedOp (exec_shrReg x y s)
  exact ⟨t, _, shiftOperand_eq_ite _ x y s, ht, fun h => by rw [hx h, toNat_shiftRight_one_byte],
    by rw [hvf, shiftedOutRight_toNat], hframe⟩

/-- Settles O25: as O24, in the other direction. -/
theorem shiftLeftDoublesTheSwitchedOperand : Obligations.ShiftLeftDoublesTheSwitchedOperand := by
  refine fun x y s => ⟨decodeWord_encodeWord (.shlReg x y), ?_⟩
  obtain ⟨t, ht, hx, hvf, hframe⟩ := exec_of_flaggedOp (exec_shlReg x y s)
  exact ⟨t, _, shiftOperand_eq_ite _ x y s, ht, fun h => by rw [hx h, toNat_shiftLeft_one_byte],
    by rw [hvf, shiftedOutLeft_toNat], hframe⟩

end Sys2Proof.Machine
end

section
/-! The immediate load (spec/42_immediate.md R98): a register write of the immediate byte, with the frame of the
arithmetic family's first form (`exec_of_setReg`). -/

namespace Sys2Proof.Machine

theorem exec_ldImm (x : Reg) (nn : Byte) (s : State) : exec (.ldImm x nn) s = .next (s.setReg x nn).advance := rfl

/-- Settles O19: a register write with the immediate as its value, X = F included. -/
theorem loadImmediateStoresTheByte : Obligations.LoadImmediateStoresTheByte :=
  fun x nn s => ⟨decodeWord_encodeWord (.ldImm x nn), exec_of_setReg (exec_ldImm x nn s)⟩

end Sys2Proof.Machine
end

section
/-! The conditional skips (spec/43_skip.md R99 to R102). Each is one skip `State.skipIf` on a comparison of two bytes. What
such a skip does and leaves unchanged is proved once; an instruction adds what its condition says of the bytes as
numbers. -/

namespace Sys2Proof.Machine

variable {i : Instr} {s : State} {c : Bool} {p : Prop}

/-! ### A state that differs in the pc alone -/

theorem partsKept_setPc (ps : List Part) (s : State) (w : Word) : partsKept ps s (s.setPc w) :=
  partsKept_setRegs_setPc ps s s.v w

theorem regsKept_setPc (rs : List Reg) (s : State) (w : Word) : regsKept rs s (s.setPc w) := fun _ _ => rfl

/-! ### The form of the family -/

/-- Both advances are modulo 2^16 (R81). -/
theorem pcSkippedIf_skipIf (hc : c = true ↔ p) : pcSkippedIf p s (s.skipIf c) := by
  refine ⟨fun hp => ?taken, fun hp => ?untaken⟩
  case taken =>
    rw [State.pc_skipIf, if_pos (hc.mpr hp), BitVec.toNat_add]
    rfl
  case untaken =>
    rw [State.pc_skipIf, if_neg (mt hc.mp hp), BitVec.toNat_add]
    rfl

/-- An instruction that skips when `p` holds and writes nothing but the pc. -/
theorem exec_of_skipIf (h : exec i s = .next (s.skipIf c)) (hc : c = true ↔ p) :
    ∃ t, exec i s = .next t ∧ pcSkippedIf p s t ∧ regsKept [] s t ∧ partsKept [] s t := by
  refine ⟨_, h, pcSkippedIf_skipIf hc, ?_⟩
  rw [State.skipIf_eq]
  exact ⟨regsKept_setPc [] s _, partsKept_setPc [] s _⟩

theorem exec_seImm (x : Reg) (nn : Byte) (s : State) :
    exec (.seImm x nn) s = .next (s.skipIf (s.reg x == nn)) := rfl

theorem exec_sneImm (x : Reg) (nn : Byte) (s : State) :
    exec (.sneImm x nn) s = .next (s.skipIf (s.reg x != nn)) := rfl

theorem exec_seReg (x y : Reg) (s : State) :
    exec (.seReg x y) s = .next (s.skipIf (s.reg x == s.reg y)) := rfl

theorem exec_sneReg (x y : Reg) (s : State) :
    exec (.sneReg x y) s = .next (s.skipIf (s.reg x != s.reg y)) := rfl

/-! ### The comparison, as one of unsigned numbers -/

theorem byte_beq_iff_toNat_eq (a b : Byte) : (a == b) = true ↔ a.toNat = b.toNat :=
  beq_iff_eq.trans BitVec.toNat_inj.symm

theorem byte_bne_iff_toNat_ne (a b : Byte) : (a != b) = true ↔ a.toNat ≠ b.toNat :=
  bne_iff_ne.trans BitVec.toNat_inj.symm.not

/-! ### Classes 5 and 9 have no form with another low nibble (R71) -/

theorem decodeIfZeroN_of_ne_zero {op : Word} (h : fieldN op ≠ 0) (i : Instr) :
    decodeIfZeroN op i = .error (.unknown op) := if_neg h

theorem decodeWord_class5_or_9_of_ne_zero {cls : BitVec 4} (hcls : cls = 0x5#4 ∨ cls = 0x9#4) (x y : Reg) {n : Nibble}
    (hn : n ≠ 0) : decodeWord (layoutXYN cls x y n) = .error (.unknown (layoutXYN cls x y n)) := by
  have hfield : fieldN (layoutXYN cls x y n) ≠ 0 := by rwa [fieldN_layoutXYN]
  rw [decodeWord, fieldClass_layoutXYN]
  obtain rfl | rfl := hcls
  · exact decodeIfZeroN_of_ne_zero hfield _
  · exact decodeIfZeroN_of_ne_zero hfield _

/-! ### The obligations -/

/-- Settles O26: two skips, each on the comparison of Vx with the immediate. -/
theorem skipsCompareWithTheImmediate : Obligations.SkipsCompareWithTheImmediate :=
  fun x nn s => ⟨decodeWord_encodeWord (.seImm x nn), decodeWord_encodeWord (.sneImm x nn),
    exec_of_skipIf (exec_seImm x nn s) (byte_beq_iff_toNat_eq _ _),
    exec_of_skipIf (exec_sneImm x nn s) (byte_bne_iff_toNat_ne _ _)⟩

/-- Settles O27: two skips, each on the comparison of Vx with Vy; the other words of the two classes do not decode. -/
theorem skipsCompareTwoRegisters : Obligations.SkipsCompareTwoRegisters := by
  refine fun x y s => ⟨decodeWord_encodeWord (.seReg x y), decodeWord_encodeWord (.sneReg x y), fun n hn w hw => ?illegal,
    exec_of_skipIf (exec_seReg x y s) (byte_beq_iff_toNat_eq _ _),
    exec_of_skipIf (exec_sneReg x y s) (byte_bne_iff_toNat_ne _ _)⟩
  case illegal =>
    obtain ⟨cls, hcls, rfl⟩ : ∃ cls : BitVec 4, (cls = 0x5#4 ∨ cls = 0x9#4) ∧ w = layoutXYN cls x y n :=
      hw.elim (fun h => ⟨_, .inl rfl, h⟩) (fun h => ⟨_, .inr rfl, h⟩)
    rw [runWord_error s (decodeWord_class5_or_9_of_ne_zero hcls x y hn), raise_eq]

end Sys2Proof.Machine
end

section
/-! Jump, call and return (spec/44_jump.md R103 to R106). A jump writes the pc alone; a call below the limit and a return
from a stack with an entry write the stack and the pc. What each of the two forms leaves unchanged is proved once; an
instruction adds its target, and CALL and RET what they do at the two ends of the stack (R29, R30). -/

namespace Sys2Proof.Machine

variable {i : Instr} {s : State} {w : Word} {l : List Word}

/-! ### The two forms of the family -/

theorem regsKept_setStack_setPc (rs : List Reg) (s : State) (l : List Word) (w : Word) :
    regsKept rs s ((s.setStack l).setPc w) := fun _ _ => rfl

theorem partsKept_setStack_setPc (s : State) (l : List Word) (w : Word) :
    partsKept [.stack] s ((s.setStack l).setPc w) := by
  intro p hp
  cases p with
  | stack => exact absurd List.mem_cons_self hp
  | _ => simp [Part.same]

/-- An instruction that writes the pc alone. -/
theorem exec_of_setPc (h : exec i s = .next (s.setPc w)) :
    ∃ t, exec i s = .next t ∧ t.pc = w ∧ regsKept [] s t ∧ partsKept [] s t :=
  ⟨_, h, rfl, regsKept_setPc [] s w, partsKept_setPc [] s w⟩

/-- An instruction that writes the stack and the pc. -/
theorem exec_of_setStack_setPc (h : exec i s = .next ((s.setStack l).setPc w)) :
    ∃ t, exec i s = .next t ∧ t.pc = w ∧ t.stack = l ∧ regsKept [] s t ∧ partsKept [.stack] s t :=
  ⟨_, h, rfl, rfl, regsKept_setStack_setPc [] s l w, partsKept_setStack_setPc s l w⟩

/-! ### The form of each instruction -/

theorem exec_jp (nnn : Addr) (s : State) : exec (.jp nnn) s = .next (s.setPc (zext16 nnn)) := rfl

theorem exec_jpV0 (nnn : Addr) (s : State) :
    exec (.jpV0 nnn) s = .next (s.setPc ((s.reg 0).setWidth 16 + zext16 nnn)) := rfl

theorem exec_call (nnn : Addr) (s : State) :
    exec (.call nnn) s = push (s.pc + 2) s (fun s' => .next (s'.setPc (zext16 nnn))) := rfl

theorem exec_ret (s : State) : exec .ret s = pop s (fun w s' => .next (s'.setPc w)) := rfl

theorem exec_call_of_lt (h : s.depth < stackDepth) (nnn : Addr) :
    exec (.call nnn) s = .next ((s.setStack (s.stack ++ [s.pc + 2])).setPc (zext16 nnn)) := by
  rw [exec_call, push_of_lt h]

theorem exec_call_of_le (h : stackDepth ≤ s.depth) (nnn : Addr) :
    exec (.call nnn) s = .next (s.setFault (some (.stackOverflow s.pc))) := by
  rw [exec_call, push_of_le h, raise_eq]

theorem exec_ret_of_concat (h : s.stack = l ++ [w]) : exec .ret s = .next ((s.setStack l).setPc w) := by
  rw [exec_ret, pop_concat h]

theorem exec_ret_of_nil (h : s.stack = []) : exec .ret s = .next (s.setFault (some (.stackUnderflow s.pc))) := by
  rw [exec_ret, pop_nil h, raise_eq]

/-! ### The targets as numbers, and the depth of a stack with a newest entry -/

/-- A byte and a 12-bit address are added modulo 2^16, both zero-extended (R8, R106). -/
theorem toNat_setWidth_add_zext16 (b : Byte) (nnn : Addr) :
    (b.setWidth 16 + zext16 nnn).toNat = (b.toNat + nnn.toNat) % 65536 := by
  have hb : (b.setWidth 16).toNat = b.toNat := BitVec.toNat_setWidth_of_le (by decide)
  rw [BitVec.toNat_add, hb, zext16_toNat]

theorem State.depth_of_concat (h : s.stack = l ++ [w]) : s.depth = l.length + 1 := by
  rw [State.depth, h, List.length_append, List.length_singleton]

/-! ### The obligations -/

/-- Settles O28: two writes of the pc, the second with V0 added. -/
theorem jumpsSetThePc : Obligations.JumpsSetThePc := by
  refine fun nnn s => ⟨decodeWord_encodeWord (.jp nnn), decodeWord_encodeWord (.jpV0 nnn), ?jump, ?offset⟩
  case jump =>
    obtain ⟨t, ht, hpc, hframe⟩ := exec_of_setPc (exec_jp nnn s)
    exact ⟨t, ht, by rw [hpc, zext16_toNat], hframe⟩
  case offset =>
    obtain ⟨t, ht, hpc, hframe⟩ := exec_of_setPc (exec_jpV0 nnn s)
    exact ⟨t, ht, by rw [hpc, toNat_setWidth_add_zext16], hframe⟩

/-- Settles O29: the two cases of a push (`push_of_lt`, `push_of_le`). -/
theorem callPushesTheNextAddressOrOverflows : Obligations.CallPushesTheNextAddressOrOverflows := by
  refine fun nnn s => ⟨decodeWord_encodeWord (.call nnn), fun hd => ?pushes, fun hd => exec_call_of_le hd nnn⟩
  case pushes =>
    obtain ⟨t, ht, hpc, hstack, hframe⟩ := exec_of_setStack_setPc (exec_call_of_lt hd nnn)
    exact ⟨t, s.pc + 2, ht, by rw [hpc, zext16_toNat], BitVec.toNat_add _ _, hstack,
      State.depth_of_concat hstack, hframe⟩

/-- Settles O30: the two cases of a pop (`pop_concat`, `pop_nil`). -/
theorem returnPopsThePcOrUnderflows : Obligations.ReturnPopsThePcOrUnderflows := by
  refine ⟨decodeWord_encodeWord .ret, fun s => ⟨fun l w hs => ?pops, fun hd => ?underflows⟩⟩
  case pops =>
    obtain ⟨t, ht, hpc, hstack, hframe⟩ := exec_of_setStack_setPc (exec_ret_of_concat hs)
    have hdepth : t.depth = l.length := congrArg List.length hstack
    exact ⟨t, ht, hpc, hstack, by rw [hdepth, State.depth_of_concat hs], hframe⟩
  case underflows => exact exec_ret_of_nil (List.eq_nil_of_length_eq_zero hd)

end Sys2Proof.Machine
end

section
/-! The memory and index-register instructions (spec/45_memory_index.md R108 to R113). Three of them write I alone; FX55
writes memory and I, FX65 registers and I, each under the range check (R56). What each of the three forms leaves unchanged
is proved once; an instruction adds what it stores, and FX55 and FX65 their fault. -/

namespace Sys2Proof.Machine

variable {i : Instr} {s t : State} {x : Reg} {w : Word} {m : Memory} {v : Vector Byte 16} {l : List Byte} {base n : Nat}

/-! ### The frame of a state that differs in I, the pc, and memory or registers -/

theorem partsKept_setMem_setI_setPc (s : State) (m : Memory) (w p : Word) :
    partsKept [.index, .memory] s (((s.setMem m).setI w).setPc p) := by
  intro part hpart
  cases part with
  | index => exact absurd (by decide) hpart
  | memory => exact absurd (by decide) hpart
  | _ => simp [Part.same]

theorem partsKept_setRegs_setI_setPc (s : State) (v : Vector Byte 16) (w p : Word) :
    partsKept [.index] s (((s.setRegs v).setI w).setPc p) := by
  intro part hpart
  cases part with
  | index => exact absurd (by decide) hpart
  | _ => simp [Part.same]

/-! ### The three forms of the family -/

/-- An instruction that writes I alone and advances. -/
theorem exec_of_setI (h : exec i s = .next (s.setI w).advance) :
    ∃ t, exec i s = .next t ∧ t.i = w ∧ pcAdvanced s t ∧ regsKept [] s t ∧ partsKept [.index] s t :=
  ⟨_, h, rfl, pcAdvanced_of_pc_eq rfl, fun _ _ => rfl, partsKept_setRegs_setI_setPc s s.v w _⟩

/-- An instruction that writes memory and I and advances. -/
theorem exec_of_setMem_setI (h : exec i s = .next ((s.setMem m).setI w).advance) :
    ∃ t, exec i s = .next t ∧ t.mem = m ∧ t.i = w ∧ pcAdvanced s t ∧ regsKept [] s t ∧
      partsKept [.index, .memory] s t :=
  ⟨_, h, rfl, rfl, pcAdvanced_of_pc_eq rfl, fun _ _ => rfl, partsKept_setMem_setI_setPc s m w _⟩

/-- An instruction that writes the register file and I and advances. -/
theorem exec_of_setRegs_setI (h : exec i s = .next ((s.setRegs v).setI w).advance) :
    ∃ t, exec i s = .next t ∧ (∀ r, t.reg r = (s.setRegs v).reg r) ∧ t.i = w ∧ pcAdvanced s t ∧
      partsKept [.index] s t :=
  ⟨_, h, fun _ => rfl, rfl, pcAdvanced_of_pc_eq rfl, partsKept_setRegs_setI_setPc s v w _⟩

/-! ### Writing a list of bytes, and the range check at I -/

theorem memoryKeptOutside_of_writeBytes (hm : t.mem = Memory.writeBytes s.mem base l) (hl : l.length = n)
    (h : base + n ≤ memSize) : memoryKeptOutside base n s t := by
  intro a ha
  rw [hm, Memory.read_writeBytes l _ _ _ (hl ▸ h), hl, if_neg ha]

theorem read_writeBytes_regsUpTo {r : Reg} (h : base + regCount x ≤ memSize)
    (hr : r.toNat ≤ x.toNat) : Memory.read (Memory.writeBytes m base (s.regsUpTo x)) (base + r.toNat) = s.reg r := by
  have hin : base ≤ base + r.toNat ∧ base + r.toNat < base + regCount x := by
    rw [regCount]
    omega
  rw [← length_regsUpTo s x] at h hin
  rw [Memory.read_writeBytes _ _ _ _ h, if_pos hin, Nat.add_sub_cancel_left, getD_regsUpTo s x r hr]

/-- A range at I that leaves the memory, whatever the access: only the latch is written (R56). -/
theorem checkRange_index_of_lt (h : memSize < s.i.toNat + n) (k : Result) :
    checkRange s.i.toNat n s k =
      .next (s.setFault (some (.outOfBoundsMemory (if 4096 ≤ s.i.toNat then s.i else 0x1000)))) := by
  rw [checkRange_of_lt h, raise_eq, outOfRangeInfo_toNat]

/-! ### The form of each instruction -/

theorem exec_ldI (nnn : Addr) (s : State) : exec (.ldI nnn) s = .next (s.setI (zext16 nnn)).advance := rfl

theorem exec_addI (x : Reg) (s : State) :
    exec (.addI x) s = .next (s.setI (s.i + (s.reg x).setWidth 16)).advance := rfl

theorem exec_ldF (x : Reg) (s : State) : exec (.ldF x) s = .next (s.setI (glyphAddress (s.reg x))).advance := rfl

theorem exec_ldMemVx_of_le (h : s.i.toNat + regCount x ≤ memSize) : exec (.ldMemVx x) s =
    .next ((s.setMem (Memory.writeBytes s.mem s.i.toNat (s.regsUpTo x))).setI
      (indexAfter Config.memIIncrement x s.i)).advance :=
  checkRange_of_le h s _

theorem exec_ldMemVx_of_lt (h : memSize < s.i.toNat + regCount x) : exec (.ldMemVx x) s =
    .next (s.setFault (some (.outOfBoundsMemory (if 4096 ≤ s.i.toNat then s.i else 0x1000)))) :=
  checkRange_index_of_lt h _

theorem exec_ldVxMem_of_le (h : s.i.toNat + regCount x ≤ memSize) : exec (.ldVxMem x) s =
    .next ((s.setRegs (s.regsLoaded x s.i.toNat)).setI (indexAfter Config.memIIncrement x s.i)).advance :=
  checkRange_of_le h s _

theorem exec_ldVxMem_of_lt (h : memSize < s.i.toNat + regCount x) : exec (.ldVxMem x) s =
    .next (s.setFault (some (.outOfBoundsMemory (if 4096 ≤ s.i.toNat then s.i else 0x1000)))) :=
  checkRange_index_of_lt h _

/-! ### The obligations -/

/-- Settles O35: inside the range check the bytes written are V0..Vx in order (`read_writeBytes_regsUpTo`). -/
theorem storeRegistersWritesTheRangeAtI : Obligations.StoreRegistersWritesTheRangeAtI := by
  refine fun x s => ⟨decodeWord_encodeWord (.ldMemVx x), fun hin => ?stores,
    fun hout => exec_ldMemVx_of_lt (Nat.lt_succ_of_le hout)⟩
  case stores =>
    have hrange : s.i.toNat + regCount x ≤ memSize := hin
    obtain ⟨t, ht, hmem, hi, hframe⟩ := exec_of_setMem_setI (exec_ldMemVx_of_le hrange)
    exact ⟨t, ht, fun r hr => by rw [hmem, read_writeBytes_regsUpTo hrange hr],
      memoryKeptOutside_of_writeBytes hmem (length_regsUpTo s x) hrange, by rw [hi, indexAfter_toNat], hframe⟩

/-- Settles O36: inside the range check the register file is split at Vx (`reg_regsLoaded`). -/
theorem loadRegistersReadsTheRangeAtI : Obligations.LoadRegistersReadsTheRangeAtI := by
  refine fun x s => ⟨decodeWord_encodeWord (.ldVxMem x), fun hin => ?loads,
    fun hout => exec_ldVxMem_of_lt (Nat.lt_succ_of_le hout)⟩
  case loads =>
    have hrange : s.i.toNat + regCount x ≤ memSize := hin
    obtain ⟨t, ht, hreg, hi, hframe⟩ := exec_of_setRegs_setI (exec_ldVxMem_of_le hrange)
    exact ⟨t, ht, fun r hr => by rw [hreg, reg_regsLoaded, if_pos hr],
      fun r hr => by rw [hreg, reg_regsLoaded, if_neg (Nat.not_le_of_lt hr)], by rw [hi, indexAfter_toNat], hframe⟩

/-- Settles O32: a write of I with the zero-extended address as its value. -/
theorem loadIndexTakesTheAddress : Obligations.LoadIndexTakesTheAddress := by
  refine fun nnn s => ⟨decodeWord_encodeWord (.ldI nnn), ?_⟩
  obtain ⟨t, ht, hi, hframe⟩ := exec_of_setI (exec_ldI nnn s)
  exact ⟨t, ht, by rw [hi, zext16_toNat], hframe⟩

/-- Settles O33: a write of I with the 16-bit sum as its value; no register, VF included, is written. -/
theorem addToIndexWrapsWithoutFlag : Obligations.AddToIndexWrapsWithoutFlag := by
  refine fun x s => ⟨decodeWord_encodeWord (.addI x), ?_⟩
  obtain ⟨t, ht, hi, hframe⟩ := exec_of_setI (exec_addI x s)
  have hext : ((s.reg x).setWidth 16).toNat = (s.reg x).toNat := BitVec.toNat_setWidth_of_le (by decide)
  exact ⟨t, ht, by rw [hi, BitVec.toNat_add, hext], hframe⟩

/-- Settles O34: a write of I with the address of the glyph as its value (`glyphAddress_toNat`). -/
theorem fontIndexIsFiveTimesTheDigit : Obligations.FontIndexIsFiveTimesTheDigit := by
  refine fun x s => ⟨decodeWord_encodeWord (.ldF x), ?_⟩
  obtain ⟨t, ht, hi, hframe⟩ := exec_of_setI (exec_ldF x s)
  exact ⟨t, ht, by rw [hi, glyphAddress_toNat], hframe⟩

end Sys2Proof.Machine
end

section
/-! The display instructions (spec/46_display.md R114 to R119). The laws of the compositor (`drawRows_spec`) speak of a list
of rows at a start position already wrapped; here they are carried over to the sprite at I that the obligations speak of
(`spriteCovers`). Collision is then the same as a pixel going from set to unset. -/

namespace Sys2Proof.Machine

variable {i : Instr} {s : State} {x y : Reg} {n : Nat} {d : Display}

/-! ### The frame of a state that differs in the display, registers and the pc -/

theorem partsKept_setDisp_setRegs_setPc (s : State) (d : Display) (v : Vector Byte 16) (p : Word) :
    partsKept [.display] s (((s.setDisp d).setRegs v).setPc p) := by
  intro part hpart
  cases part with
  | display => exact absurd List.mem_cons_self hpart
  | _ => simp [Part.same]

/-! ### The two forms of the family -/

/-- An instruction that writes the display alone and advances. -/
theorem exec_of_setDisp (h : exec i s = .next (s.setDisp d).advance) :
    ∃ t, exec i s = .next t ∧ t.disp = d ∧ pcAdvanced s t ∧ regsKept [] s t ∧ partsKept [.display] s t :=
  ⟨_, h, rfl, pcAdvanced_of_pc_eq rfl, fun _ _ => rfl, partsKept_setDisp_setRegs_setPc s d s.v _⟩

/-- An instruction that draws: the display and VF are what the compositor leaves (R116). -/
theorem exec_of_drawSprite (h : exec i s = drawSprite x y n s) :
    ∃ t, exec i s = .next t ∧ t.disp = (s.drawn x y n).1 ∧ t.reg vf = flagByte (s.drawn x y n).2 ∧
      pcAdvanced s t ∧ regsKept [vf] s t ∧ partsKept [.display] s t := by
  refine ⟨_, h, rfl, by simp, pcAdvanced_of_pc_eq rfl, fun r hr => ?_, partsKept_setDisp_setRegs_setPc s _ _ _⟩
  have hrf : r ≠ vf := by simpa using hr
  simp [hrf]

/-! ### The form of each instruction -/

theorem exec_cls (s : State) : exec .cls s = .next (s.setDisp Display.clear).advance := rfl

theorem exec_drw (x y : Reg) (n : Nibble) (s : State) : exec (.drw x y n) s =
    if n.toNat = 0 then drawSprite x y 0 s else checkRange s.i.toNat n.toNat s (drawSprite x y n.toNat s) := rfl

/-- A draw of no rows is not checked, whatever I is (R57). -/
theorem exec_drw_of_le {n : Nibble} (h : n = 0 ∨ s.i.toNat + n.toNat ≤ memSize) :
    exec (.drw x y n) s = drawSprite x y n.toNat s := by
  rw [exec_drw]
  split_ifs with hn
  · rw [hn]
  · have hn' : n ≠ 0 := fun h0 => hn (by rw [h0]; rfl)
    exact checkRange_of_le (h.resolve_left hn') s _

theorem exec_drw_of_lt {n : Nibble} (hn : n ≠ 0) (h : memSize < s.i.toNat + n.toNat) : exec (.drw x y n) s =
    .next (s.setFault (some (.outOfBoundsMemory (if 4096 ≤ s.i.toNat then s.i else 0x1000)))) := by
  have hn' : n.toNat ≠ 0 := fun h0 => hn (BitVec.eq_of_toNat_eq h0)
  rw [exec_drw, if_neg hn', checkRange_index_of_lt h]

/-! ### What a draw does to every pixel, and when it collides -/

/-- The compositor's rows cover what the sprite at I covers: wrapping the start position first changes no pixel, and row
`r` is the byte at `I + r` (R116, R118, R119). -/
theorem rowsCover_readBytes_iff (s : State) (x y : Reg) (n : Nat) (px : Fin 64) (py : Fin 32) :
    rowsCover ((s.reg x).toNat % 64) ((s.reg y).toNat % 32) (Memory.readBytes s.mem s.i.toNat n) px py ↔
      spriteCovers s x y n px py := by
  simp only [rowsCover, rowCovers, spriteCovers, Memory.length_readBytes, Nat.mod_add_mod]
  constructor
  · rintro ⟨r, hr, hpy, c, hc, hpx, hbit⟩
    rw [Memory.getD_readBytes _ _ _ _ hr] at hbit
    exact ⟨r, c, hr, hc, hpx, hpy, hbit⟩
  · rintro ⟨r, c, hr, hc, hpx, hpy, hbit⟩
    rw [← Memory.getD_readBytes _ _ _ _ hr] at hbit
    exact ⟨r, hr, hpy, c, hc, hpx, hbit⟩

open Classical in
/-- A sprite of fewer than 32 rows: its covered pixels are inverted, and it collides when one of them was set. -/
theorem State.drawn_spec (s : State) (x y : Reg) (hn : n < 32) :
    (∀ px py, Display.pixel (s.drawn x y n).1 px py =
      (Display.pixel s.disp px py ^^ decide (spriteCovers s x y n px py))) ∧
    ((s.drawn x y n).2 = true ↔ ∃ px py, spriteCovers s x y n px py ∧ Display.pixel s.disp px py = true) := by
  have hlen : (Memory.readBytes s.mem s.i.toNat n).length < 32 := by rwa [Memory.length_readBytes]
  obtain ⟨hpixel, hcollide⟩ := drawRows_spec ((s.reg x).toNat % 64) _ ((s.reg y).toNat % 32) (s.disp, false) hlen
  simp only [rowsCover_readBytes_iff] at hpixel hcollide
  exact ⟨hpixel, hcollide.trans (by simp)⟩

theorem State.pixel_drawn_of_covers (hn : n < 32) {px : Fin 64} {py : Fin 32} (h : spriteCovers s x y n px py) :
    Display.pixel (s.drawn x y n).1 px py = !Display.pixel s.disp px py := by
  simp [(s.drawn_spec x y hn).1, h]

theorem State.pixel_drawn_of_not_covers (hn : n < 32) {px : Fin 64} {py : Fin 32} (h : ¬ spriteCovers s x y n px py) :
    Display.pixel (s.drawn x y n).1 px py = Display.pixel s.disp px py := by
  simp [(s.drawn_spec x y hn).1, h]

/-- A set pixel is unset after the draw exactly when the sprite covers it, so that the collision of the compositor is an
erased pixel (R117). -/
theorem State.drawn_collides_iff (s : State) (x y : Reg) (hn : n < 32) : (s.drawn x y n).2 = true ↔
    ∃ px py, Display.pixel s.disp px py = true ∧ Display.pixel (s.drawn x y n).1 px py = false := by
  rw [(s.drawn_spec x y hn).2]
  refine exists_congr fun px => exists_congr fun py => ?_
  by_cases hcov : spriteCovers s x y n px py
  · simp [hcov, State.pixel_drawn_of_covers hn hcov]
  · simp [hcov, State.pixel_drawn_of_not_covers hn hcov]

theorem flagByte_drawn_of_erased (hn : n < 32)
    (h : ∃ px py, Display.pixel s.disp px py = true ∧ Display.pixel (s.drawn x y n).1 px py = false) :
    flagByte (s.drawn x y n).2 = 1 := by
  rw [(s.drawn_collides_iff x y hn).mpr h]
  rfl

theorem flagByte_drawn_of_kept (hn : n < 32)
    (h : ∀ px py, Display.pixel s.disp px py = true → Display.pixel (s.drawn x y n).1 px py = true) :
    flagByte (s.drawn x y n).2 = 0 := by
  have hno : ¬ (s.drawn x y n).2 = true := by
    rw [s.drawn_collides_iff x y hn]
    rintro ⟨px, py, hset, herased⟩
    simp [h px py hset] at herased
  rw [Bool.eq_false_of_not_eq_true hno]
  rfl

/-! ### The obligations -/

/-- Settles O41: a draw that reads inside the memory, or reads nothing, is the compositor's, and the other is the range
check's fault. -/
theorem drawInvertsTheSpritePixelsAndDetectsCollision : Obligations.DrawInvertsTheSpritePixelsAndDetectsCollision := by
  refine fun x y n s => ⟨decodeWord_encodeWord (.drw x y n), fun hin => ?draws, fun hn hout => exec_drw_of_lt hn hout⟩
  case draws =>
    have hn : n.toNat < 32 := Nat.lt_trans n.isLt (by decide)
    obtain ⟨t, ht, hdisp, hvf, hframe⟩ := exec_of_drawSprite (exec_drw_of_le hin)
    refine ⟨t, ht, ?_⟩
    rw [hdisp, hvf]
    exact ⟨fun px py => ⟨State.pixel_drawn_of_covers hn, State.pixel_drawn_of_not_covers hn⟩,
      flagByte_drawn_of_erased hn, flagByte_drawn_of_kept hn, hframe⟩

/-- Settles O40: a write of the display with the clear display as its value; VF is not written. -/
theorem clearTurnsEveryPixelOff : Obligations.ClearTurnsEveryPixelOff := by
  refine ⟨decodeWord_encodeWord .cls, fun s => ?_⟩
  obtain ⟨t, ht, hdisp, hframe⟩ := exec_of_setDisp (exec_cls s)
  exact ⟨t, ht, fun px py => by rw [hdisp, Display.pixel_clear], hframe⟩

end Sys2Proof.Machine
end

section
/-! The timers (spec/47_timers.md R120 to R124). FX07 is a register write, with the frame of the arithmetic family's first
form (`exec_of_setReg`); FX15 and FX18 write one timer alone. `update_timers` writes both timers, each by `countDown`. -/

namespace Sys2Proof.Machine

variable {i : Instr} {s : State} {b : Byte}

/-! ### The frames of the timer writes -/

theorem partsKept_setDt_setPc (s : State) (b : Byte) (w : Word) :
    partsKept [.delayTimer] s ((s.setDt b).setPc w) := by
  intro part hpart
  cases part with
  | delayTimer => exact absurd List.mem_cons_self hpart
  | _ => simp [Part.same]

theorem partsKept_setSt_setPc (s : State) (b : Byte) (w : Word) :
    partsKept [.soundTimer] s ((s.setSt b).setPc w) := by
  intro part hpart
  cases part with
  | soundTimer => exact absurd List.mem_cons_self hpart
  | _ => simp [Part.same]

/-- The timer transaction writes the two timers; around it the call is taken and counted, and answered (R123, R155). -/
theorem partsKept_answer_updateTimers_popCall (s : State) (r : Reply) :
    partsKept [.delayTimer, .soundTimer, .turns, .calls, .reply] s (answer (s.popCall.updateTimers, r)) := by
  intro part hpart
  cases part with
  | delayTimer | soundTimer | turns | calls | reply => exact absurd (by decide) hpart
  | index | memory | stack | display | latch | draws | port => simp [Part.same]

/-! ### The two forms that write a timer -/

/-- An instruction that writes the delay timer alone and advances. -/
theorem exec_of_setDt (h : exec i s = .next (s.setDt b).advance) :
    ∃ t, exec i s = .next t ∧ t.dt = b ∧ pcAdvanced s t ∧ regsKept [] s t ∧ partsKept [.delayTimer] s t :=
  ⟨_, h, rfl, pcAdvanced_of_pc_eq rfl, fun _ _ => rfl, partsKept_setDt_setPc s b _⟩

/-- An instruction that writes the sound timer alone and advances. -/
theorem exec_of_setSt (h : exec i s = .next (s.setSt b).advance) :
    ∃ t, exec i s = .next t ∧ t.st = b ∧ pcAdvanced s t ∧ regsKept [] s t ∧ partsKept [.soundTimer] s t :=
  ⟨_, h, rfl, pcAdvanced_of_pc_eq rfl, fun _ _ => rfl, partsKept_setSt_setPc s b _⟩

/-! ### The form of each instruction -/

theorem exec_ldVxDt (x : Reg) (s : State) : exec (.ldVxDt x) s = .next (s.setReg x s.dt).advance := rfl

theorem exec_ldDtVx (x : Reg) (s : State) : exec (.ldDtVx x) s = .next (s.setDt (s.reg x)).advance := rfl

theorem exec_ldStVx (x : Reg) (s : State) : exec (.ldStVx x) s = .next (s.setSt (s.reg x)).advance := rfl

/-! ### The audio gate (R124) -/

theorem State.soundActive_iff : s.soundActive = true ↔ s.st ≠ 0 := bne_iff_ne

/-- A sound timer at 1 is at 0 after the next countdown, and the gate is closed. -/
theorem State.soundActive_updateTimers_of_st_eq_one (h : s.st = 1) : s.updateTimers.soundActive = false := by
  rw [State.soundActive, State.st_updateTimers, h]
  rfl

/-! ### The obligations -/

/-- Settles O43: a register write and two timer writes; the audio gate is read off the sound timer. -/
theorem timerInstructionsCopyTheByte : Obligations.TimerInstructionsCopyTheByte := by
  refine fun x s => ⟨decodeWord_encodeWord (.ldVxDt x), decodeWord_encodeWord (.ldDtVx x),
    decodeWord_encodeWord (.ldStVx x), exec_of_setReg (exec_ldVxDt x s), exec_of_setDt (exec_ldDtVx x s), ?setsSound⟩
  case setsSound =>
    obtain ⟨t, ht, hst, hframe⟩ := exec_of_setSt (exec_ldStVx x s)
    exact ⟨t, ht, hst, by rw [State.soundActive_iff, hst],
      fun hx => State.soundActive_updateTimers_of_st_eq_one (hst.trans hx), hframe⟩

/-- Settles O44: the step is the two countdowns (`countDown_toNat`) on the state with the call taken, whatever the latch
holds. -/
theorem updateTimersCountsDownEachTimer : Obligations.UpdateTimersCountsDownEachTimer :=
  fun s hc => ⟨_, step_of_updateTimers hc, countDown_toNat s.dt, countDown_toNat s.st, rfl, fun _ _ => rfl,
    partsKept_answer_updateTimers_popCall s .done⟩

end Sys2Proof.Machine
end

section
/-! The key instructions (spec/48_keys.md R127 to R130). SKP and SKNP have the form of the conditional skips
(`exec_of_skipIf`), on the flag of one key. FX0A is a register write of the lowest pressed key (`exec_of_setReg`), and with
no key pressed it is no write at all. -/

namespace Sys2Proof.Machine

variable {s : State}

/-! ### The form of each instruction -/

theorem exec_skp (x : Reg) (s : State) :
    exec (.skp x) s = .next (s.skipIf (s.keyPressed (lowNibble (s.reg x)))) := rfl

theorem exec_sknp (x : Reg) (s : State) :
    exec (.sknp x) s = .next (s.skipIf (!s.keyPressed (lowNibble (s.reg x)))) := rfl

theorem exec_ldVxK (x : Reg) (s : State) : exec (.ldVxK x) s = execLdVxK x s := rfl

theorem exec_ldVxK_of_some {k : Nat} (x : Reg) (h : s.lowestKey = some k) :
    exec (.ldVxK x) s = .next (s.setReg x (BitVec.ofNat 8 k)).advance := by
  rw [exec_ldVxK, execLdVxK, h]

theorem exec_ldVxK_of_none (x : Reg) (h : s.lowestKey = none) : exec (.ldVxK x) s = .next s := by
  rw [exec_ldVxK, execLdVxK, h]

/-! ### The key that is tested (R127) -/

theorem State.keyPressed_lowNibble (s : State) (b : Byte) :
    s.keyPressed (lowNibble b) = s.keys.getLsbD (b.toNat % 16) := by
  rw [State.keyPressed, lowNibble_toNat]

/-! ### The obligations -/

/-- Settles O46: two skips, each on the flag of the key in the low nibble of Vx. -/
theorem keySkipsTestTheKeyOfTheLowNibble : Obligations.KeySkipsTestTheKeyOfTheLowNibble :=
  fun x s => ⟨decodeWord_encodeWord (.skp x), decodeWord_encodeWord (.sknp x),
    exec_of_skipIf (exec_skp x s) (by rw [s.keyPressed_lowNibble]),
    exec_of_skipIf (exec_sknp x s) (by rw [s.keyPressed_lowNibble, Bool.not_eq_true'])⟩

/-- Settles O47: a register write with the lowest pressed key as its value; a key number fits a byte. With no key pressed
nothing is written, the pc included. -/
theorem waitForKeyTakesTheLowestKey : Obligations.WaitForKeyTakesTheLowestKey := by
  refine fun x s => ⟨decodeWord_encodeWord (.ldVxK x), fun k hk hpressed hlower => ?takesKey,
    fun hnone => exec_ldVxK_of_none x (lowestKey_of_none s hnone)⟩
  case takesKey =>
    have hlowest : s.lowestKey = some k := lowestKey_of_pressed s k hk hpressed hlower
    obtain ⟨t, ht, hx, hframe⟩ := exec_of_setReg (exec_ldVxK_of_some x hlowest)
    have hbyte : (BitVec.ofNat 8 k).toNat = k := Nat.mod_eq_of_lt (Nat.lt_trans hk (by decide))
    exact ⟨t, ht, by rw [hx, hbyte], hframe⟩

end Sys2Proof.Machine
end

section
/-! The random byte and the decimal store (spec/49_random_bcd.md R131 to R133). CXNN writes a register and the counter of
draws; FX33 writes memory, under the range check (R56). What each of the two forms leaves unchanged is proved once; an
instruction adds the value it stores. -/

namespace Sys2Proof.Machine

variable {i : Instr} {s : State} {x : Reg} {b : Byte} {m : Memory} {l : List Byte} {base k n : Nat}

/-! ### The frames of the two forms -/

theorem partsKept_setRegs_setDraws_setPc (s : State) (v : Vector Byte 16) (n : Nat) (w : Word) :
    partsKept [.draws] s (((s.setRegs v).setDraws n).setPc w) := by
  intro part hpart
  cases part with
  | draws => exact absurd List.mem_cons_self hpart
  | _ => simp [Part.same]

theorem partsKept_setMem_setPc (s : State) (m : Memory) (w : Word) :
    partsKept [.memory] s ((s.setMem m).setPc w) := by
  intro part hpart
  cases part with
  | memory => exact absurd List.mem_cons_self hpart
  | _ => simp [Part.same]

/-! ### The two forms of the family -/

/-- An instruction that writes one register and the counter of draws and advances. -/
theorem exec_of_setReg_setDraws (h : exec i s = .next ((s.setReg x b).setDraws n).advance) :
    ∃ t, exec i s = .next t ∧ t.reg x = b ∧ pcAdvanced s t ∧ regsKept [x] s t ∧ partsKept [.draws] s t := by
  refine ⟨_, h, by simp, pcAdvanced_of_pc_eq rfl, fun r hr => ?_, partsKept_setRegs_setDraws_setPc s _ n _⟩
  have hrx : r ≠ x := by simpa using hr
  simp [hrx]

/-- An instruction that writes memory alone and advances. -/
theorem exec_of_setMem (h : exec i s = .next (s.setMem m).advance) :
    ∃ t, exec i s = .next t ∧ t.mem = m ∧ pcAdvanced s t ∧ regsKept [] s t ∧ partsKept [.memory] s t :=
  ⟨_, h, rfl, pcAdvanced_of_pc_eq rfl, fun _ _ => rfl, partsKept_setMem_setPc s m _⟩

/-! ### The form of each instruction -/

theorem exec_rnd (x : Reg) (nn : Byte) (s : State) : exec (.rnd x nn) s =
    .next ((s.setReg x (Config.randByte s.draws &&& nn)).setDraws (s.draws + 1)).advance := rfl

theorem exec_ldB_of_le (h : s.i.toNat + 3 ≤ memSize) : exec (.ldB x) s =
    .next (s.setMem (Memory.writeBytes s.mem s.i.toNat (decimalDigits (s.reg x)))).advance :=
  checkRange_of_le h s _

theorem exec_ldB_of_lt (h : memSize < s.i.toNat + 3) : exec (.ldB x) s =
    .next (s.setFault (some (.outOfBoundsMemory (if 4096 ≤ s.i.toNat then s.i else 0x1000)))) :=
  checkRange_index_of_lt h _

/-! ### The digits, and the bytes they are stored at -/

theorem map_toNat_decimalDigits (b : Byte) :
    (decimalDigits b).map BitVec.toNat = [b.toNat / 100, b.toNat / 10 % 10, b.toNat % 10] := rfl

theorem toNat_getD_decimalDigits (b : Byte) (k : Nat) :
    ((decimalDigits b).getD k 0).toNat = [b.toNat / 100, b.toNat / 10 % 10, b.toNat % 10].getD k 0 := by
  rw [← map_toNat_decimalDigits]
  exact (List.getD_map _ 0 BitVec.toNat).symm

theorem read_writeBytes_add (h : base + l.length ≤ memSize) (hk : k < l.length) :
    Memory.read (Memory.writeBytes m base l) (base + k) = l.getD k 0 := by
  have hin : base ≤ base + k ∧ base + k < base + l.length := by omega
  rw [Memory.read_writeBytes l _ _ _ h, if_pos hin, Nat.add_sub_cancel_left]

/-! ### The obligations -/

/-- Settles O37: inside the range check the three bytes are the digits, the most significant one at I
(`toNat_getD_decimalDigits`); I is not written. -/
theorem decimalStoreWritesThreeDigits : Obligations.DecimalStoreWritesThreeDigits := by
  refine fun x s => ⟨decodeWord_encodeWord (.ldB x), fun hin => ?stores,
    fun hout => exec_ldB_of_lt (Nat.lt_succ_of_le hout)⟩
  case stores =>
    have hrange : s.i.toNat + 3 ≤ memSize := hin
    obtain ⟨t, ht, hmem, hframe⟩ := exec_of_setMem (exec_ldB_of_le (x := x) hrange)
    have hdigit : ∀ k < 3, (Memory.read t.mem (s.i.toNat + k)).toNat =
        [(s.reg x).toNat / 100, (s.reg x).toNat / 10 % 10, (s.reg x).toNat % 10].getD k 0 := fun k hk => by
      rw [hmem, read_writeBytes_add hrange hk, toNat_getD_decimalDigits]
    exact ⟨t, ht, hdigit 0 (by decide), hdigit 1 (by decide), hdigit 2 (by decide),
      memoryKeptOutside_of_writeBytes hmem rfl hrange, hframe⟩

/-- Settles O48: a register write with the masked draw as its value, which the masks 0xFF and 0x00 keep and clear whatever
the draw is. -/
theorem randomByteIsMasked : Obligations.RandomByteIsMasked := by
  refine fun x nn s => ⟨decodeWord_encodeWord (.rnd x nn), ?_⟩
  obtain ⟨t, ht, hx, hframe⟩ := exec_of_setReg_setDraws (exec_rnd x nn s)
  refine ⟨t, ht, ?_⟩
  rw [hx]
  exact ⟨fun b _ => BitVec.getLsbD_and, fun hfull => by rw [hfull]; exact BitVec.and_allOnes,
    fun hzero => by rw [hzero]; exact BitVec.and_zero, hframe⟩

end Sys2Proof.Machine
end

section
/-! The decoder on encoded instructions and on illegal words (spec/30_encoding.md R64 to R69). The bytes of an instruction
put its word together again, and the word decodes to it (`decodeWord_encodeWord`). The illegal words are found class by
class, in the order of the decoder's tree (R68): each branch that can reject is described once by the numbers it looks at. -/

namespace Sys2Proof

/-! ### Which words each rejecting branch rejects -/

section Rejects

variable {w : Word} {i : Instr}

theorem decodeClass0_eq_error_iff :
    decodeClass0 w = .error (.unknown w) ↔ w.toNat ≠ 0x00E0 ∧ w.toNat ≠ 0x00EE := by
  have hcls : w = 0x00E0#16 ↔ w.toNat = 0x00E0 := BitVec.toNat_inj.symm
  have hret : w = 0x00EE#16 ↔ w.toNat = 0x00EE := BitVec.toNat_inj.symm
  unfold decodeClass0
  split_ifs with h1 h2 <;> simp_all

theorem decodeIfZeroN_eq_error_iff : decodeIfZeroN w i = .error (.unknown w) ↔ w.toNat % 16 ≠ 0 := by
  have hn : fieldN w = 0#4 ↔ w.toNat % 16 = 0 := by rw [← fieldN_eq]; exact BitVec.toNat_inj.symm
  unfold decodeIfZeroN
  split_ifs with h <;> simp_all

theorem decodeClass8_eq_error_iff : decodeClass8 w = .error (.unknown w) ↔
    w.toNat % 16 ∈ [0x8, 0x9, 0xA, 0xB, 0xC, 0xD, 0xF] := by
  unfold decodeClass8
  rw [fieldN_eq]
  split <;> simp_all
  omega

theorem decodeClassE_eq_error_iff : decodeClassE w = .error (.unknown w) ↔ w.toNat % 256 ∉ [0x9E, 0xA1] := by
  unfold decodeClassE
  rw [fieldNN_eq]
  split <;> simp_all

theorem decodeClassF_eq_error_iff : decodeClassF w = .error (.unknown w) ↔
    w.toNat % 256 ∉ [0x07, 0x0A, 0x15, 0x18, 0x1E, 0x29, 0x33, 0x55, 0x65] := by
  unfold decodeClassF
  rw [fieldNN_eq]
  split <;> simp_all

end Rejects

/-! ### The obligations -/

/-- Settles O1: the two bytes give the word back (`wordOfBytes_split`), and the word its instruction. -/
theorem decodeOfEncodeIsTheInstruction : Obligations.DecodeOfEncodeIsTheInstruction := by
  intro i rest
  have hword : decodeWord (wordOfBytes (highByte (encodeWord i)) (lowByte (encodeWord i))) = .ok i := by
    rw [wordOfBytes_split, decodeWord_encodeWord]
  simp only [encode, List.cons_append, List.nil_append, decode, hword]

/-- Settles O4, by the class of the word: ten classes reject nothing, and the other six reject what their branch does. -/
theorem illegalWordsAreTheSixSets : Obligations.IllegalWordsAreTheSixSets := by
  intro w
  unfold decodeWord
  rw [fieldClass_eq]
  split
  case h_1 hc => simpa [hc] using decodeClass0_eq_error_iff
  case h_6 hc => simpa [hc] using decodeIfZeroN_eq_error_iff
  case h_9 hc => simpa [hc] using decodeClass8_eq_error_iff
  case h_10 hc => simpa [hc] using decodeIfZeroN_eq_error_iff
  case h_15 hc => simpa [hc] using decodeClassE_eq_error_iff
  case h_16 hc => simpa [hc] using decodeClassF_eq_error_iff
  case h_17 =>
    have hclass : w.toNat / 4096 < 16 := Nat.div_lt_of_lt_mul w.isLt
    interval_cases w.toNat / 4096 <;> contradiction
  all_goals simp [*]

/-- Settles O5, by running the decoder on each word. -/
theorem sampleWordsDecode : Obligations.SampleWordsDecode := by
  unfold Obligations.SampleWordsDecode
  decide

end Sys2Proof
end

section
/-! What an instruction can do to a state, said once over all instructions (`Effect`, `exec_effect`): the states it can
leave, each written as the updates it makes. The statements about every instruction, or about every step, are read off
this list: which part of the state an instruction writes, which faults it raises and when, and when it changes nothing. -/

namespace Sys2Proof.Machine

/-- The states that instruction `i` can leave from `s`: the three faults (R55, R29, R30), or writes that only some
instructions make, or register writes and an advance. The values written are left open where no statement over all
instructions depends on them. -/
inductive Effect (s : State) : Instr → State → Prop where
  | outside {i : Instr} (hn : 0 < indexedBytes i) (hi : memSize < s.i.toNat + indexedBytes i) :
      Effect s i (s.setFault (some (.outOfBoundsMemory (if 4096 ≤ s.i.toNat then s.i else 0x1000))))
  | overflow (nnn : Addr) : Effect s (.call nnn) (s.setFault (some (.stackOverflow s.pc)))
  | underflow : Effect s .ret (s.setFault (some (.stackUnderflow s.pc)))
  | call (nnn : Addr) (hd : s.depth < stackDepth) :
      Effect s (.call nnn) ((s.setStack (s.stack ++ [s.pc + 2])).setPc (zext16 nnn))
  | ret {l : List Word} {w : Word} (hs : s.stack = l ++ [w]) : Effect s .ret ((s.setStack l).setPc w)
  | jump (nnn : Addr) : Effect s (.jp nnn) (s.setPc (zext16 nnn))
  | jumpV0 (nnn : Addr) : Effect s (.jpV0 nnn) (s.setPc ((s.reg 0).setWidth 16 + zext16 nnn))
  | wait (x : Reg) (hk : s.lowestKey = none) : Effect s (.ldVxK x) s
  | skip (i : Instr) (c : Bool) : Effect s i (s.skipIf c)
  | registers (i : Instr) (v : Vector Byte 16) : Effect s i (s.setRegs v).advance
  | draw (x : Reg) (nn : Byte) (v : Vector Byte 16) :
      Effect s (.rnd x nn) ((s.setRegs v).setDraws (s.draws + 1)).advance
  | clear : Effect s .cls (s.setDisp Display.clear).advance
  | sprite (x y : Reg) (n : Nibble) (d : Display) (v : Vector Byte 16) :
      Effect s (.drw x y n) ((s.setDisp d).setRegs v).advance
  | delayTimer (x : Reg) (b : Byte) : Effect s (.ldDtVx x) (s.setDt b).advance
  | soundTimer (x : Reg) (b : Byte) : Effect s (.ldStVx x) (s.setSt b).advance
  | address (nnn : Addr) (w : Word) : Effect s (.ldI nnn) (s.setI w).advance
  | addIndex (x : Reg) (w : Word) : Effect s (.addI x) (s.setI w).advance
  | glyph (x : Reg) (w : Word) : Effect s (.ldF x) (s.setI w).advance
  | digits (x : Reg) (l : List Byte) :
      Effect s (.ldB x) (s.setMem (Memory.writeBytes s.mem s.i.toNat l)).advance
  | store (x : Reg) (l : List Byte) (w : Word) :
      Effect s (.ldMemVx x) ((s.setMem (Memory.writeBytes s.mem s.i.toNat l)).setI w).advance
  | load (x : Reg) (v : Vector Byte 16) (w : Word) : Effect s (.ldVxMem x) ((s.setRegs v).setI w).advance

/-! ### Every instruction has one of these effects -/

section Completes

variable {i : Instr} {s t : State}

/-- An access through I that leaves the memory is stopped by the range check, whichever instruction makes it (R56). -/
theorem exec_of_outside (hn : 0 < indexedBytes i) (hi : memSize < s.i.toNat + indexedBytes i) : exec i s =
    .next (s.setFault (some (.outOfBoundsMemory (if 4096 ≤ s.i.toNat then s.i else 0x1000)))) := by
  cases i with
  | ldB x => exact exec_ldB_of_lt hi
  | ldMemVx x => exact exec_ldMemVx_of_lt hi
  | ldVxMem x => exact exec_ldVxMem_of_lt hi
  | drw x y n => exact exec_drw_of_lt (fun h0 => by simp [h0, indexedBytes] at hn) hi
  | _ => cases hn

/-- Every instruction completes (R79), and does one of the things listed. -/
theorem exec_effect (i : Instr) (s : State) : ∃ t, exec i s = .next t ∧ Effect s i t := by
  by_cases hout : 0 < indexedBytes i ∧ memSize < s.i.toNat + indexedBytes i
  · exact ⟨_, exec_of_outside hout.1 hout.2, .outside hout.1 hout.2⟩
  have hin : indexedBytes i = 0 ∨ s.i.toNat + indexedBytes i ≤ memSize := by omega
  cases i with
  | addImm | ldImm | ldReg | orReg | andReg | xorReg | addReg | subReg | shrReg | subnReg | shlReg | ldVxDt =>
    exact ⟨_, rfl, .registers _ _⟩
  | seImm | sneImm | seReg | sneReg | skp | sknp => exact ⟨_, rfl, .skip _ _⟩
  | jp nnn => exact ⟨_, rfl, .jump nnn⟩
  | jpV0 nnn => exact ⟨_, rfl, .jumpV0 nnn⟩
  | cls => exact ⟨_, rfl, .clear⟩
  | rnd x nn => exact ⟨_, rfl, .draw x nn _⟩
  | ldDtVx x => exact ⟨_, rfl, .delayTimer x _⟩
  | ldStVx x => exact ⟨_, rfl, .soundTimer x _⟩
  | ldI nnn => exact ⟨_, rfl, .address nnn _⟩
  | addI x => exact ⟨_, rfl, .addIndex x _⟩
  | ldF x => exact ⟨_, rfl, .glyph x _⟩
  | call nnn =>
    rcases Nat.lt_or_ge s.depth stackDepth with hd | hd
    · exact ⟨_, exec_call_of_lt hd nnn, .call nnn hd⟩
    · exact ⟨_, exec_call_of_le hd nnn, .overflow nnn⟩
  | ret =>
    rcases s.stack.eq_nil_or_concat' with hs | ⟨l, w, hs⟩
    · exact ⟨_, exec_ret_of_nil hs, .underflow⟩
    · exact ⟨_, exec_ret_of_concat hs, .ret hs⟩
  | ldVxK x =>
    cases hk : s.lowestKey with
    | none => exact ⟨_, exec_ldVxK_of_none x hk, .wait x hk⟩
    | some k => exact ⟨_, exec_ldVxK_of_some x hk, .registers _ _⟩
  | drw x y n =>
    have hn : n = 0 ∨ s.i.toNat + n.toNat ≤ memSize := hin.imp_left fun h0 => BitVec.eq_of_toNat_eq h0
    exact ⟨_, exec_drw_of_le hn, .sprite x y n _ _⟩
  | ldB x => exact ⟨_, exec_ldB_of_le (hin.resolve_left (Nat.succ_ne_zero _)), .digits x _⟩
  | ldMemVx x => exact ⟨_, exec_ldMemVx_of_le (hin.resolve_left (Nat.succ_ne_zero _)), .store x _ _⟩
  | ldVxMem x => exact ⟨_, exec_ldVxMem_of_le (hin.resolve_left (Nat.succ_ne_zero _)), .load x _ _⟩

theorem effect_of_exec (h : exec i s = .next t) : Effect s i t := by
  obtain ⟨u, hu, he⟩ := exec_effect i s
  cases hu.symm.trans h
  exact he

/-! ### What the effects leave unchanged -/

namespace Effect

/-- The host's side of the state is not an instruction's to write. -/
theorem host_eq (h : Effect s i t) :
    t.keys = s.keys ∧ t.turns = s.turns ∧ t.inbox = s.inbox ∧ t.reply = s.reply := by
  cases h <;> simp

/-- The latch is left alone, or it is the only thing written (R135). -/
theorem fault_eq_or_eq_setFault (h : Effect s i t) : t.fault = s.fault ∨ ∃ f, t = s.setFault (some f) := by
  cases h with
  | outside | overflow | underflow => exact .inr ⟨_, rfl⟩
  | _ => simp

/-- Only a range that leaves the memory and the two ends of the stack raise a fault. -/
theorem fault_eq (h : Effect s i t) (hi : indexedBytes i = 0 ∨ s.i.toNat + indexedBytes i ≤ memSize)
    (hcall : ∀ nnn, i ≠ .call nnn) (hret : i ≠ .ret) : t.fault = s.fault := by
  cases h with
  | outside hn hout => omega
  | overflow nnn => exact absurd rfl (hcall nnn)
  | underflow => exact absurd rfl hret
  | _ => simp

theorem draws_le (h : Effect s i t) : s.draws ≤ t.draws := by
  cases h <;> simp

/-- Memory is written by `writeBytes` alone, which keeps the canonical form. -/
theorem wf_mem (h : Effect s i t) (hs : Memory.wf s.mem) : Memory.wf t.mem := by
  cases h with
  | digits x l | store x l => exact Memory.wf_writeBytes l hs s.i.toNat
  | _ => simpa using hs

/-- An entry is pushed below the limit only (R29). -/
theorem depth_le (h : Effect s i t) (hs : s.depth ≤ stackDepth) : t.depth ≤ stackDepth := by
  cases h with
  | call nnn hd => simpa [State.depth] using hd
  | ret hl =>
    rw [State.depth_of_concat hl] at hs
    exact Nat.le_of_succ_le hs
  | _ => simpa [State.depth] using hs

end Effect

end Completes

/-! ### An instruction that leaves the state as it was -/

theorem word_add_ne_self (w : Word) : w + 2 ≠ w ∧ w + 4 ≠ w := by
  constructor <;> intro h <;> simp at h

/-- A state whose pc has moved, or whose latch or stack has changed, is another state. What is left are the two jumps, to
their own address, and the wait for a key. -/
theorem Effect.of_eq_self {i : Instr} {s t : State} (h : Effect s i t) (hf : s.fault = none) (ht : t = s) :
    (∃ nnn : Addr, i = .jp nnn ∧ zext16 nnn = s.pc) ∨ (∃ x, i = .ldVxK x ∧ s.lowestKey = none) ∨
    (∃ nnn : Addr, i = .jpV0 nnn ∧ (s.reg 0).setWidth 16 + zext16 nnn = s.pc) := by
  have hpc : t.pc = s.pc := congrArg State.pc ht
  have hfault : t.fault = none := (congrArg State.fault ht).trans hf
  have hlength : t.stack.length = s.stack.length := congrArg (List.length ∘ State.stack) ht
  obtain ⟨hne2, hne4⟩ := word_add_ne_self s.pc
  cases h with
  | jump nnn => exact .inl ⟨nnn, rfl, hpc⟩
  | wait x hk => exact .inr (.inl ⟨x, rfl, hk⟩)
  | jumpV0 nnn => exact .inr (.inr ⟨nnn, rfl, hpc⟩)
  | outside | overflow | underflow => cases hfault
  | call => simp at hlength
  | ret hs => simp [hs] at hlength
  | skip i c => cases c with
    | true => exact absurd hpc hne4
    | false => exact absurd hpc hne2
  | _ => exact absurd hpc hne2

theorem exec_eq_self_iff {i : Instr} {s : State} (hf : s.fault = none) : exec i s = .next s ↔
    (∃ nnn : Addr, i = .jp nnn ∧ zext16 nnn = s.pc) ∨ (∃ x, i = .ldVxK x ∧ s.lowestKey = none) ∨
    (∃ nnn : Addr, i = .jpV0 nnn ∧ (s.reg 0).setWidth 16 + zext16 nnn = s.pc) := by
  refine ⟨fun h => (effect_of_exec h).of_eq_self hf rfl, ?_⟩
  rintro (⟨nnn, rfl, hpc⟩ | ⟨x, rfl, hk⟩ | ⟨nnn, rfl, hpc⟩)
  · rw [exec_jp, hpc]; rfl
  · exact exec_ldVxK_of_none x hk
  · rw [exec_jpV0, hpc]; rfl

theorem lowestKey_eq_none_iff (s : State) : s.lowestKey = none ↔ ∀ k < 16, s.keys.getLsbD k = false := by
  refine ⟨fun h k hk => ?_, lowestKey_of_none s⟩
  rw [State.lowestKey, List.find?_eq_none] at h
  exact Bool.eq_false_of_not_eq_true (h k (List.mem_range.mpr hk))

theorem zext16_eq_iff (nnn : Addr) (w : Word) : zext16 nnn = w ↔ nnn.toNat = w.toNat := by
  rw [← BitVec.toNat_inj, zext16_toNat]

/-- The largest sum, 0xFF and 0xFFF, is below 2^16, so that it does not wrap. -/
theorem setWidth_add_zext16_eq_iff (b : Byte) (nnn : Addr) (w : Word) :
    b.setWidth 16 + zext16 nnn = w ↔ b.toNat + nnn.toNat = w.toNat := by
  have hb := b.isLt
  have hnnn := nnn.isLt
  rw [← BitVec.toNat_inj, toNat_setWidth_add_zext16, Nat.mod_eq_of_lt (by omega)]

/-- A tick of an unfaulted machine changes nothing exactly when the fetched instruction does not. -/
theorem State.idle_iff {s : State} (hf : s.fault = none) : s.idle ↔
    ∃ op i, fetch s = .ok op ∧ decodeWord op = .ok i ∧ exec i s = .next s := by
  refine ⟨fun h => ?_, fun ⟨op, i, ho, hi, hexec⟩ => ?_⟩
  · obtain ⟨hne, -⟩ | ⟨-, f, hraise⟩ | ⟨-, hexec⟩ := tick_next s h
    · exact absurd hf hne
    · have hlatched : s.fault = some f := congrArg State.fault hraise
      simp [hf] at hlatched
    · exact hexec
  · exact (tick_of_fetch s hf ho).trans ((runWord_ok s hi).trans hexec)

/-! ### The key flags -/

section Keys

variable {s t u : State} {k : Keys}

theorem checkRange_setKeys {base n : Nat} (h : checkRange base n s (.next u) = .next t) :
    checkRange base n (s.setKeys k) (.next (u.setKeys k)) = .next (t.setKeys k) := by
  obtain ⟨hin, hu⟩ | ⟨hout, rfl⟩ := checkRange_next h
  · cases hu
    exact checkRange_of_le hin _ _
  · exact checkRange_of_lt hout _ _

theorem skipIf_setKeys (s : State) (k : Keys) (c : Bool) : (s.setKeys k).skipIf c = (s.skipIf c).setKeys k := by
  cases c <;> rfl

/-- An instruction that does not read the key flags does the same under other flags (R83). -/
theorem exec_setKeys {i : Instr} (hi : ¬ readsKeys i) (h : exec i s = .next t) :
    exec i (s.setKeys k) = .next (t.setKeys k) := by
  cases i with
  | skp | sknp | ldVxK => exact absurd trivial hi
  | seImm | sneImm | seReg | sneReg =>
    cases h
    exact congrArg Host.Outcome.next (skipIf_setKeys s k _)
  | ldB | ldMemVx | ldVxMem => exact checkRange_setKeys h
  | drw x y n =>
    rw [exec_drw] at h ⊢
    split_ifs with hn
    · rw [if_pos hn] at h
      cases h
      rfl
    · rw [if_neg hn] at h
      exact checkRange_setKeys h
  | call nnn =>
    rw [exec_call] at h
    obtain ⟨hd, hu⟩ | ⟨hd, rfl⟩ := push_next h
    · cases hu
      exact exec_call_of_lt (s := s.setKeys k) hd nnn
    · exact exec_call_of_le (s := s.setKeys k) hd nnn
  | ret =>
    rw [exec_ret] at h
    obtain ⟨l, w, hs, hu⟩ | ⟨hs, rfl⟩ := pop_next h
    · cases hu
      exact exec_ret_of_concat (s := s.setKeys k) hs
    · exact exec_ret_of_nil (s := s.setKeys k) hs
  | _ =>
    cases h
    rfl

/-- What stood on the port before a tick is replaced by its own flags (R34). -/
theorem step_setKeys_of_tick (hc : s.nextCall = .tick k) (j : Keys) : step (s.setKeys j) = step s := by
  have hc' : (s.setKeys j).nextCall = .tick k := hc
  rw [step_of_tick _ hc', step_of_tick _ hc]
  rfl

end Keys

/-! ### The obligations -/

/-- Settles O12: the first half is the range check (`exec_of_outside`), the second is read off the effects. -/
theorem rangeIsCheckedBeforeAnyWrite : Obligations.RangeIsCheckedBeforeAnyWrite := by
  refine fun i s => ⟨exec_of_outside, fun hin hcall hret => ?_⟩
  obtain ⟨t, ht, he⟩ := exec_effect i s
  exact ⟨t, ht, he.fault_eq hin hcall hret⟩

/-- Settles O14: each effect is named by the instructions it belongs to, and the others keep the part. -/
theorem onlyTheNamedInstructionsWriteEachPart : Obligations.OnlyTheNamedInstructionsWriteEachPart := by
  intro i s t h
  have he := effect_of_exec h
  refine ⟨?dt, ?st, ?disp, ?stack, ?mem, ?index, ?draws, he.host_eq⟩
  all_goals cases he <;> simp

/-- Settles O15: for an instruction by `exec_setKeys`, for a tick because it puts its own flags on the port and takes them
off again. -/
theorem onlyKeyInstructionsReadTheKeys : Obligations.OnlyKeyInstructionsReadTheKeys := by
  refine ⟨fun i s t k hi h => exec_setKeys hi h, fun s t k j hc h => ⟨(step_setKeys_of_tick hc j).trans h, ?_⟩⟩
  rw [step_of_tick s hc] at h
  obtain ⟨u, -, rfl⟩ := report_next h
  rfl

/-- Settles O16: the tick changes nothing when the instruction does not (`State.idle_iff`), and three instructions can
change nothing (`exec_eq_self_iff`). -/
theorem idleMachineIsOneOfThree : Obligations.IdleMachineIsOneOfThree := by
  intro s hf
  rw [State.idle_iff hf]
  simp only [exec_eq_self_iff hf, zext16_eq_iff, lowestKey_eq_none_iff, setWidth_add_zext16_eq_iff]

end Sys2Proof.Machine
end

section
/-! The tick and the faults it raises (spec/40_cycle.md R79, R84; spec/60_exceptions.md R134, R135), and what every step
keeps. A step whose call is a tick is the tick with its report; the other transactions act on the state with the call
taken. -/

namespace Sys2Proof.Machine

variable {i : Instr} {s t : State} {k : Keys} {f : Fault}

/-! ### The tick, by the effect of the instruction it runs -/

/-- What a tick leaves: the same state, a fault in the latch alone, or the effect of an instruction. -/
theorem tick_effect (h : tick s = .next t) : t = s ∨ (∃ f, t = s.setFault (some f)) ∨ ∃ i, Effect s i t := by
  obtain ⟨-, rfl⟩ | ⟨-, hraise⟩ | ⟨-, op, i, -, -, hexec⟩ := tick_next s h
  · exact .inl rfl
  · exact .inr (.inl hraise)
  · exact .inr (.inr ⟨i, effect_of_exec hexec⟩)

/-- A tick that finds no fault and leaves one has written the latch alone (R135). -/
theorem tick_eq_setFault (hf : s.fault = none) (h : tick s = .next t) (ht : t.fault = some f) :
    t = s.setFault (some f) := by
  have latched : ∀ {g : Fault}, t = s.setFault (some g) → t = s.setFault (some f) := by
    rintro g rfl
    rw [← ht, State.fault_setFault]
  obtain rfl | ⟨g, hg⟩ | ⟨i, he⟩ := tick_effect h
  · simp [hf] at ht
  · exact latched hg
  · obtain hkept | ⟨g, hg⟩ := he.fault_eq_or_eq_setFault
    · simp [hkept, hf] at ht
    · exact latched hg

/-- A step whose call is a tick leaves what the tick leaves, without its flags and with its reply (R34, R84). -/
theorem step_of_tick_next (hc : s.nextCall = .tick k) (h : step s = .next t) :
    ∃ u, tick (s.popCall.setKeys k) = .next u ∧ t = u.releaseKeys.setReply (some (tickReply u)) :=
  report_next ((step_of_tick s hc).symm.trans h)

/-- A word is decoded from its two bytes as it is fetched (R51, R77). -/
theorem decodeWord_wordAt_of_decode {m : Memory} {a : Nat}
    (h : decode [Memory.read m a, Memory.read m (a + 1)] = .ok (i, [])) : decodeWord (wordAt m a) = .ok i := by
  simp only [decode] at h
  cases hd : decodeWord (wordOfBytes (Memory.read m a) (Memory.read m (a + 1))) with
  | ok j =>
    rw [hd] at h
    cases h
    exact hd
  | error e =>
    rw [hd] at h
    cases h

theorem report_of_none (h : s.fault = none) : report (.next s) = .next ((s.setKeys 0).setReply (some .ok)) := by
  rw [report, tickReply_of_none s h, State.releaseKeys]

/-! ### What the host reads of a fault (R134) -/

theorem State.faultStatus_setFault (s : State) (f : Fault) : (s.setFault (some f)).faultStatus = (f.code, f.info) := rfl

theorem State.faultStatus_of_none (h : s.fault = none) : s.faultStatus.1 = 0 := by
  simp only [State.faultStatus, h]

/-! ### The transactions that replace the machine -/

theorem step_of_loadRom {bytes : List Byte} (h : s.nextCall = .loadRom bytes) :
    step s = .next (answer (s.popCall.loadRom bytes)) := by
  simp only [step, h, transact]

theorem step_of_stateWrite {img : Image} (h : s.nextCall = .stateWrite img) :
    step s = .next (answer (s.popCall.stateWrite img)) := by
  simp only [step, h, transact]

theorem State.stateWrite_of_fits {img : Image} (h : ImageFits img) (s : State) :
    s.stateWrite img = (s.restore img, .ok) :=
  if_pos ((Image.valid_iff img).mpr h)

theorem State.stateWrite_of_not_fits {img : Image} (h : ¬ ImageFits img) (s : State) :
    s.stateWrite img = (s, .decodeError .badImage) :=
  if_neg (mt (Image.valid_iff img).mp h)

/-- A load leaves the reset machine, or nothing is changed; the model's own fields stay in both cases. -/
theorem State.loadRom_keeps (s : State) (bytes : List Byte) : (s.loadRom bytes).1.draws = s.draws ∧
    (s.loadRom bytes).1.turns = s.turns ∧ (s.loadRom bytes).1.keys = s.keys := by
  unfold State.loadRom
  split_ifs <;> simp

theorem State.stateWrite_keeps (s : State) (img : Image) : (s.stateWrite img).1.draws = s.draws ∧
    (s.stateWrite img).1.turns = s.turns ∧ (s.stateWrite img).1.keys = s.keys := by
  unfold State.stateWrite
  split_ifs <;> simp [State.draws_restore, State.turns_restore, State.keys_restore]

/-- Every transaction completes (R155), the tick because every instruction does. -/
theorem tick_completes (s : State) : ∃ t, tick s = .next t := by
  cases hf : s.fault with
  | some f => exact ⟨s, tick_of_fault s hf⟩
  | none =>
    cases ho : fetch s with
    | error f => exact ⟨_, tick_of_fetch_error s hf ho⟩
    | ok op =>
      rw [tick_of_fetch s hf ho]
      cases hd : decodeWord op with
      | error e => exact ⟨_, runWord_error s hd⟩
      | ok i =>
        obtain ⟨t, ht, -⟩ := exec_effect i s
        exact ⟨t, (runWord_ok s hd).trans ht⟩

theorem step_completes (s : State) : ∃ t, step s = .next t := by
  cases hc : s.nextCall with
  | tick k =>
    obtain ⟨t, ht⟩ := tick_completes (s.popCall.setKeys k)
    rw [step_of_tick s hc, ht]
    exact ⟨_, rfl⟩
  | updateTimers => exact ⟨_, step_of_updateTimers hc⟩
  | loadRom bytes => exact ⟨_, step_of_loadRom hc⟩
  | stateRead => exact ⟨_, step_of_stateRead hc⟩
  | stateWrite img => exact ⟨_, step_of_stateWrite hc⟩

/-! ### What every step keeps -/

/-- A tick keeps the counter of transactions and never moves the counter of draws back. -/
theorem tick_counters (h : tick s = .next t) : s.draws ≤ t.draws ∧ t.turns = s.turns := by
  obtain rfl | ⟨f, rfl⟩ | ⟨i, he⟩ := tick_effect h
  · exact ⟨Nat.le_refl _, rfl⟩
  · exact ⟨Nat.le_refl _, rfl⟩
  · exact ⟨he.draws_le, he.host_eq.2.1⟩

theorem step_counters (h : step s = .next t) : s.draws ≤ t.draws ∧ t.turns = s.turns + 1 := by
  cases hc : s.nextCall with
  | tick k =>
    obtain ⟨u, hu, rfl⟩ := step_of_tick_next hc h
    exact tick_counters hu
  | updateTimers =>
    cases (step_of_updateTimers hc).symm.trans h
    exact ⟨Nat.le_refl _, rfl⟩
  | stateRead =>
    cases (step_of_stateRead hc).symm.trans h
    exact ⟨Nat.le_refl _, rfl⟩
  | loadRom bytes =>
    cases (step_of_loadRom hc).symm.trans h
    obtain ⟨hdraws, hturns, -⟩ := s.popCall.loadRom_keeps bytes
    exact ⟨hdraws.ge, hturns⟩
  | stateWrite img =>
    cases (step_of_stateWrite hc).symm.trans h
    obtain ⟨hdraws, hturns, -⟩ := s.popCall.stateWrite_keeps img
    exact ⟨hdraws.ge, hturns⟩

/-- A tick keeps the canonical form of memory and the limit of the stack. -/
theorem tick_wf (h : tick s = .next t) (hm : Memory.wf s.mem) (hd : s.depth ≤ stackDepth) :
    Memory.wf t.mem ∧ t.depth ≤ stackDepth := by
  obtain rfl | ⟨f, rfl⟩ | ⟨i, he⟩ := tick_effect h
  · exact ⟨hm, hd⟩
  · exact ⟨hm, hd⟩
  · exact ⟨he.wf_mem hm, he.depth_le hd⟩

theorem State.inv_loadRom (h : s.Inv) (bytes : List Byte) : (s.loadRom bytes).1.Inv := by
  by_cases hlen : bytes.length ≤ maxRom
  · rw [s.loadRom_of_le hlen]
    exact ⟨Memory.wf_writeBytes bytes Memory.wf_nil entry, Nat.zero_le _, h.2.2⟩
  · rw [s.loadRom_of_lt (Nat.lt_of_not_le hlen)]
    exact h

theorem State.wf_mem_restore (s : State) (img : Image) : Memory.wf (s.restore img).mem := by
  rw [State.mem_restore]
  exact Memory.wf_writeBytes _ Memory.wf_nil 0

theorem State.inv_restore {img : Image} (hfits : ImageFits img) (h : s.keys = 0) : (s.restore img).Inv := by
  refine ⟨s.wf_mem_restore img, ?_, (s.keys_restore img).trans h⟩
  rw [State.depth, State.stack_restore, List.length_map, hfits.stackComplete]
  exact hfits.depthFits

theorem State.inv_stateWrite (h : s.Inv) (img : Image) : (s.stateWrite img).1.Inv := by
  by_cases hfits : ImageFits img
  · rw [State.stateWrite_of_fits hfits]
    exact State.inv_restore hfits h.2.2
  · rw [State.stateWrite_of_not_fits hfits]
    exact h

/-! ### The obligations -/

/-- Settles O60, by the transaction: a tick runs one effect (`tick_wf`) and takes its flags off the port; a load and a
restore build memory and stack anew; the others touch neither. -/
theorem everyStepKeepsTheInvariant : Obligations.EveryStepKeepsTheInvariant := by
  intro s t hinv h
  have hpop : s.popCall.Inv := State.inv_of_eq hinv rfl rfl rfl
  cases hc : s.nextCall with
  | tick k =>
    obtain ⟨u, hu, rfl⟩ := step_of_tick_next hc h
    obtain ⟨hmem, hdepth⟩ := tick_wf hu hinv.1 hinv.2.1
    exact ⟨hmem, hdepth, rfl⟩
  | updateTimers =>
    cases (step_of_updateTimers hc).symm.trans h
    exact State.inv_of_eq hpop rfl rfl rfl
  | stateRead =>
    cases (step_of_stateRead hc).symm.trans h
    exact State.inv_of_eq hpop rfl rfl rfl
  | loadRom bytes =>
    cases (step_of_loadRom hc).symm.trans h
    exact State.inv_of_eq (State.inv_loadRom hpop bytes) rfl rfl rfl
  | stateWrite img =>
    cases (step_of_stateWrite hc).symm.trans h
    exact State.inv_of_eq (State.inv_stateWrite hpop img) rfl rfl rfl

/-- Settles O59: the reset memory lists nothing, and the stack is empty. -/
theorem resetMeetsTheInvariant : Obligations.ResetMeetsTheInvariant := ⟨Memory.wf_nil, Nat.zero_le _, rfl⟩

/-- Settles O49: an instruction moves the counter of draws forward or not at all, and the other transactions keep it. -/
theorem drawsAreNeverReused : Obligations.DrawsAreNeverReused :=
  ⟨fun x nn s => ⟨_, exec_rnd x nn s, rfl⟩, fun _ _ h => step_counters h⟩

/-- Settles O13, by `step_completes` and `exec_effect`. -/
theorem everyStepGivesANextState : Obligations.EveryStepGivesANextState :=
  ⟨step_completes, fun i s => (exec_effect i s).imp fun _ h => h.1⟩

/-- Settles O10: a tick raises a fault in the latch alone (`tick_eq_setFault`), and its report reads the latch. -/
theorem raisedFaultWritesOnlyTheLatch : Obligations.RaisedFaultWritesOnlyTheLatch := by
  refine ⟨fun s t hf h ht => ?tick, fun s t k hc h => ?step⟩
  case tick =>
    obtain ⟨f, hlatch⟩ := Option.ne_none_iff_exists'.mp ht
    rw [hlatch]
    exact tick_eq_setFault hf h hlatch
  case step =>
    obtain ⟨u, hu, rfl⟩ := step_of_tick_next hc h
    refine ⟨fun hnone => congrArg some (tickReply_of_none u hnone),
      fun f hlatch => congrArg some (tickReply_of_some u hlatch), fun f hf hlatch => ?_⟩
    rw [tickReply_of_some u hlatch, tick_eq_setFault (s := s.popCall.setKeys k) hf hu hlatch]
    rfl

/-- Settles O11: each cause sets the latch to its fault, and `fault_status` reads code and info off it. -/
theorem faultStatusGivesCodeAndInfo : Obligations.FaultStatusGivesCodeAndInfo := by
  refine fun s => ⟨State.faultStatus_of_none, fun op hf ho hop => ?unknown, fun nnn hd => ?overflow, fun hd => ?underflow,
    fun hf hpc => ?fetch, fun i hn hi => ?outside⟩
  case unknown =>
    rw [tick_of_fetch s hf ho, runWord_of_illegal hop]
    exact ⟨_, raise_eq _ s, State.faultStatus_setFault s _⟩
  case overflow => exact ⟨_, exec_call_of_le hd nnn, State.faultStatus_setFault s _⟩
  case underflow => exact ⟨_, exec_ret_of_nil (List.eq_nil_of_length_eq_zero hd), State.faultStatus_setFault s _⟩
  case fetch =>
    have hout : 0xFFF ≤ s.pc.toNat := Nat.le_of_succ_le_succ hpc
    exact ⟨_, tick_of_fetch_error s hf (fetch_of_outside hout), State.faultStatus_setFault s _⟩
  case outside => exact ⟨_, exec_of_outside hn hi, State.faultStatus_setFault s _⟩

/-- Settles O6: the fetched word decodes as its bytes do, the instruction completes, and the report reads the latch. -/
theorem stepRunsTheDecodedInstruction : Obligations.StepRunsTheDecodedInstruction := by
  intro s k i hc hf hpc hdecode
  have ho : fetch s = .ok (wordAt s.mem s.pc.toNat) := fetch_of_le s hpc
  obtain ⟨t, ht, -⟩ := exec_effect i (s.popCall.setKeys k)
  have hstep : step s = report (.next t) := by
    rw [step_of_tick_of_fetch hc hf ho, runWord_ok _ (decodeWord_wordAt_of_decode hdecode), ht]
  exact ⟨t, ht, fun hnone => hstep.trans (report_of_none hnone), fun f hlatch => hstep.trans (report_of_fault hlatch)⟩

end Sys2Proof.Machine
end

section
/-! Reset and the host interface (spec/70_reset_and_hazards.md R151 to R162). A load leaves the reset machine with the
image in its memory; a state image is read from the machine element by element and installed element by element, and the
two are inverse to each other because every value fits its width. -/

namespace Sys2Proof.Machine

variable {s t : State} {img : Image} {bytes : List Byte}

/-! ### Lists of numbers and of words -/

theorem getD_map_toNat {w : Nat} (l : List (BitVec w)) (k : Nat) :
    (l.map BitVec.toNat).getD k 0 = (l.getD k 0).toNat := by
  have h := List.getD_map (n := k) l 0 BitVec.toNat
  rwa [show (0 : BitVec w).toNat = 0 from BitVec.toNat_zero] at h

theorem getD_map_ofNat {w : Nat} (l : List Nat) (k : Nat) :
    (l.map (BitVec.ofNat w)).getD k 0 = BitVec.ofNat w (l.getD k 0) :=
  List.getD_map _ 0 (BitVec.ofNat w)

theorem toNat_ofNat_of_lt {w n : Nat} (h : n < 2 ^ w) : (BitVec.ofNat w n).toNat = n := Nat.mod_eq_of_lt h

theorem ofNat_toNat_same {w : Nat} (b : BitVec w) : BitVec.ofNat w b.toNat = b := by
  rw [BitVec.ofNat_toNat, BitVec.setWidth_eq]

/-- Numbers that fit the width come back from their words. -/
theorem map_toNat_map_ofNat {w : Nat} {l : List Nat} (h : allBelow (2 ^ w) l) :
    (l.map (BitVec.ofNat w)).map BitVec.toNat = l := by
  rw [List.map_map]
  exact List.map_congr_left (fun n hn => toNat_ofNat_of_lt (h n hn)) |>.trans l.map_id

/-- Words come back from their numbers. -/
theorem map_ofNat_map_toNat {w : Nat} (l : List (BitVec w)) : (l.map BitVec.toNat).map (BitVec.ofNat w) = l := by
  simp [Function.comp_def]

theorem allBelow_map_toNat {w : Nat} (l : List (BitVec w)) : allBelow (2 ^ w) (l.map BitVec.toNat) := by
  intro n hn
  obtain ⟨b, -, rfl⟩ := List.mem_map.mp hn
  exact b.isLt

theorem State.getD_toList_v (s : State) (r : Reg) : s.v.toList.getD r.toNat 0 = s.reg r := by
  have hr : r.toNat < 16 := r.isLt
  simp [State.reg, List.getD_eq_getElem?_getD, hr]

/-! ### The display buffer (R156) -/

theorem State.getElem?_displayBuffer_pixel (s : State) (px : Fin 64) (py : Fin 32) :
    s.displayBuffer[py.val * 64 + px.val]? = some (Display.pixel s.disp px py) := by
  have hx : Fin.ofNat 64 (py.val * 64 + px.val) = px := Fin.ext (by simp only [Fin.val_ofNat]; omega)
  have hy : Fin.ofNat 32 ((py.val * 64 + px.val) / 64) = py := Fin.ext (by simp only [Fin.val_ofNat]; omega)
  rw [s.getElem_displayBuffer (by omega), hx, hy]

theorem State.getD_displayBuffer_pixel (s : State) (px : Fin 64) (py : Fin 32) :
    s.displayBuffer.getD (py.val * 64 + px.val) false = Display.pixel s.disp px py := by
  rw [List.getD_eq_getElem?_getD, s.getElem?_displayBuffer_pixel, Option.getD_some]

/-! ### The memory after a load (R151) -/

theorem step_of_loadRom_of_le (hc : s.nextCall = .loadRom bytes) (hlen : bytes.length ≤ maxRom) : ∃ t,
    step s = .next t ∧ t.reply = some .ok ∧
      t.machine = State.reset.setMem (Memory.writeBytes [] entry bytes) := by
  refine ⟨_, step_of_loadRom hc, ?_, ?_⟩
  · rw [reply_answer, State.loadRom_of_le _ hlen]
  · rw [machine_answer, State.loadRom_of_le _ hlen]
    rfl

theorem Memory.read_image_outside (h : bytes.length ≤ maxRom) {a : Nat}
    (ha : ¬ (entry ≤ a ∧ a < entry + bytes.length)) :
    Memory.read (Memory.writeBytes [] entry bytes) a = Memory.unlisted a := by
  rw [Memory.read_image h, if_neg ha]

theorem Memory.read_image_font (h : bytes.length ≤ maxRom) {a : Nat} (ha : a < 80) :
    Memory.read (Memory.writeBytes [] entry bytes) a = fontBytes.getD a 0 := by
  rw [Memory.read_image_outside h (by unfold entry; omega), Memory.unlisted_font]

/-- The glyphs of R110, written out, are the bytes an unlisted address reads as. -/
theorem Memory.unlisted_glyphs : ∀ d < 16, ∀ k < 5, (Memory.unlisted (5 * d + k)).toNat =
    ([[0xF0, 0x90, 0x90, 0x90, 0xF0], [0x20, 0x60, 0x20, 0x20, 0x70], [0xF0, 0x10, 0xF0, 0x80, 0xF0],
      [0xF0, 0x10, 0xF0, 0x10, 0xF0], [0x90, 0x90, 0xF0, 0x10, 0x10], [0xF0, 0x80, 0xF0, 0x10, 0xF0],
      [0xF0, 0x80, 0xF0, 0x90, 0xF0], [0xF0, 0x10, 0x20, 0x40, 0x40], [0xF0, 0x90, 0xF0, 0x90, 0xF0],
      [0xF0, 0x90, 0xF0, 0x10, 0xF0], [0xF0, 0x90, 0xF0, 0x90, 0x90], [0xE0, 0x90, 0xE0, 0x90, 0xE0],
      [0xF0, 0x80, 0x80, 0x80, 0xF0], [0xE0, 0x90, 0x90, 0x90, 0xE0], [0xF0, 0x80, 0xF0, 0x80, 0xF0],
      [0xF0, 0x80, 0xF0, 0x80, 0x80]].getD d []).getD k 0 := by
  decide

/-- After a load of no bytes the word at the pc is 0x0000, which is illegal (R152). -/
theorem tick_of_machine_eq_reset (h : t.machine = State.reset) :
    tick t = .next (t.setFault (some (.unknownOpcode 0))) := by
  have hfault : t.fault = none := congrArg State.fault h
  have hfetch : fetch t = .ok 0 :=
    calc fetch t = fetch t.machine := (fetch_congr rfl rfl).symm
      _ = fetch State.reset := by rw [h]
      _ = .ok 0 := by decide
  rw [tick_of_fetch t hfault hfetch, runWord_of_illegal (by decide), raise_eq]

/-! ### Reading the state out (R158, R159) -/

theorem State.stateRead_of_none (h : s.fault = none) : s.stateRead = .image s.snapshot := by
  simp only [State.stateRead, h]

theorem State.stateRead_of_ne_none (h : s.fault ≠ none) : s.stateRead = .readRefused := by
  obtain ⟨f, hf⟩ := Option.ne_none_iff_exists'.mp h
  simp only [State.stateRead, hf]

/-- Two states that hold the same machine have the same outputs (R157). -/
theorem State.outputs_congr {u : State} (h : u.machine = s.machine) :
    u.faultStatus = s.faultStatus ∧ u.soundActive = s.soundActive ∧ u.displayBuffer = s.displayBuffer := by
  refine ⟨?_, ?_, ?_⟩
  · rw [← u.faultStatus_machine, h, s.faultStatus_machine]
  · rw [← u.soundActive_machine, h, s.soundActive_machine]
  · rw [← u.displayBuffer_machine, h, s.displayBuffer_machine]

theorem State.length_snapshot_mem (s : State) : s.snapshot.mem.length = 4096 := by
  rw [State.snapshot_mem, List.length_map, Memory.length_readBytes, memSize]

theorem State.length_snapshot_v (s : State) : s.snapshot.v.length = 16 := by
  rw [State.snapshot_v, List.length_map, Vector.length_toList]

theorem State.length_snapshot_disp (s : State) : s.snapshot.disp.length = 2048 := by
  rw [State.snapshot_disp, s.length_displayBuffer]

theorem State.getD_snapshot_mem (s : State) {a : Nat} (ha : a < 4096) :
    s.snapshot.mem.getD a 0 = (Memory.read s.mem a).toNat := by
  rw [State.snapshot_mem, getD_map_toNat, Memory.getD_readBytes _ _ memSize _ ha, Nat.zero_add]

theorem State.getD_snapshot_v (s : State) (r : Reg) : s.snapshot.v.getD r.toNat 0 = (s.reg r).toNat := by
  rw [State.snapshot_v, getD_map_toNat, s.getD_toList_v]

theorem State.getD_snapshot_disp (s : State) (px : Fin 64) (py : Fin 32) :
    s.snapshot.disp.getD (py.val * 64 + px.val) false = Display.pixel s.disp px py := by
  rw [State.snapshot_disp, s.getD_displayBuffer_pixel]

/-- The image of a state with at most 16 stack entries is valid: every value comes from a word of its width. -/
theorem State.imageFits_snapshot (s : State) (hd : s.depth ≤ stackDepth) : ImageFits s.snapshot where
  tagMatches := s.snapshot_tag
  memComplete := s.length_snapshot_mem
  regsComplete := s.length_snapshot_v
  stackComplete := by rw [s.snapshot_stack, List.length_map, s.snapshot_depth]; rfl
  pixelsComplete := s.length_snapshot_disp
  memFits := by rw [s.snapshot_mem]; exact allBelow_map_toNat _
  regsFit := by rw [s.snapshot_v]; exact allBelow_map_toNat _
  stackFits := by rw [s.snapshot_stack]; exact allBelow_map_toNat _
  indexFits := s.i.isLt
  pcFits := s.pc.isLt
  dtFits := s.dt.isLt
  stFits := s.st.isLt
  depthFits := hd

/-! ### Installing an image (R160) -/

theorem State.read_restore (h : ImageFits img) (s : State) {a : Nat} (ha : a < 4096) :
    Memory.read (s.restore img).mem a = BitVec.ofNat 8 (img.mem.getD a 0) := by
  have hlen : (img.mem.map (BitVec.ofNat 8)).length = memSize := by rw [List.length_map, h.memComplete]; rfl
  rw [State.mem_restore, Memory.read_writeBytes _ _ _ _ (by omega), if_pos (by unfold memSize at hlen; omega),
    Nat.sub_zero, getD_map_ofNat]

theorem State.toNat_read_restore (h : ImageFits img) (s : State) {a : Nat} (ha : a < 4096) :
    (Memory.read (s.restore img).mem a).toNat = img.mem.getD a 0 := by
  rw [State.read_restore h s ha, toNat_ofNat_of_lt (getD_lt_of_allBelow h.memFits (by decide) a)]

theorem State.toNat_reg_restore (h : ImageFits img) (s : State) (r : Reg) :
    ((s.restore img).reg r).toNat = img.v.getD r.toNat 0 := by
  rw [State.reg_restore, toNat_ofNat_of_lt (getD_lt_of_allBelow h.regsFit (by decide) _)]

theorem State.pixel_restore (s : State) (img : Image) (px : Fin 64) (py : Fin 32) :
    Display.pixel (s.restore img).disp px py = img.disp.getD (py.val * 64 + px.val) false := by
  rw [State.disp_restore, Display.pixel_ofBits]

/-! ### An image of a state that meets the invariant, installed (R162) -/

theorem State.mem_restore_snapshot (h : s.Inv) (m : State) : (m.restore s.snapshot).mem = s.mem := by
  have hfits := s.imageFits_snapshot h.2.1
  have hwf := m.wf_mem_restore s.snapshot
  refine Memory.ext_of_read hwf h.1 fun a => ?_
  by_cases ha : a < 4096
  · apply BitVec.eq_of_toNat_eq
    rw [State.toNat_read_restore hfits m ha, s.getD_snapshot_mem ha]
  · have hout : memSize ≤ a := Nat.le_of_not_lt ha
    rw [Memory.read_of_memSize_le hwf hout, Memory.read_of_memSize_le h.1 hout]

theorem State.v_restore_snapshot (s m : State) : (m.restore s.snapshot).v = s.v := by
  refine Vector.ext fun k hk => ?_
  have hreg := State.reg_restore m s.snapshot (BitVec.ofNat 4 k)
  rw [s.getD_snapshot_v, ofNat_toNat_same] at hreg
  simpa [State.reg, Nat.mod_eq_of_lt hk] using hreg

theorem State.disp_restore_snapshot (s m : State) : (m.restore s.snapshot).disp = s.disp :=
  Display.ext_of_pixel fun px py => by rw [State.pixel_restore, s.getD_snapshot_disp]

/-- The elements of R38 with the latch taken from `u`, and the model's own fields from `m`. -/
def State.withMachineOf (m u : State) : State :=
  ((((u.setDraws m.draws).setKeys m.keys).setTurns m.turns).setInbox m.inbox).setReply m.reply

/-- Only the elements of R38 and the latch are taken. -/
theorem State.withMachineOf_congr (m : State) {u : State} (hmem : u.mem = s.mem) (hv : u.v = s.v) (hi : u.i = s.i)
    (hpc : u.pc = s.pc) (hstack : u.stack = s.stack) (hdt : u.dt = s.dt) (hst : u.st = s.st) (hdisp : u.disp = s.disp)
    (hfault : u.fault = s.fault) : m.withMachineOf u = m.withMachineOf s := by
  cases u
  cases s
  simp_all [State.withMachineOf, State.setDraws, State.setKeys, State.setTurns, State.setInbox, State.setReply]

theorem State.restore_eq_withMachineOf (m : State) (img : Image) :
    m.restore img = m.withMachineOf (m.restore img) := rfl

theorem State.restore_snapshot (h : s.Inv) (hf : s.fault = none) (m : State) :
    m.restore s.snapshot = m.withMachineOf s := by
  have hmem := State.mem_restore_snapshot h m
  have hv := s.v_restore_snapshot m
  have hdisp := s.disp_restore_snapshot m
  have hi : (m.restore s.snapshot).i = s.i := by rw [State.i_restore, State.snapshot_i, ofNat_toNat_same]
  have hpc : (m.restore s.snapshot).pc = s.pc := by rw [State.pc_restore, State.snapshot_pc, ofNat_toNat_same]
  have hstack : (m.restore s.snapshot).stack = s.stack := by
    rw [State.stack_restore, State.snapshot_stack, map_ofNat_map_toNat]
  have hdt : (m.restore s.snapshot).dt = s.dt := by rw [State.dt_restore, State.snapshot_dt, ofNat_toNat_same]
  have hst : (m.restore s.snapshot).st = s.st := by rw [State.st_restore, State.snapshot_st, ofNat_toNat_same]
  have hfault : (m.restore s.snapshot).fault = s.fault := (m.fault_restore s.snapshot).trans hf.symm
  rw [State.restore_eq_withMachineOf]
  exact State.withMachineOf_congr m hmem hv hi hpc hstack hdt hst hdisp hfault

/-! ### The obligations -/

/-- Settles O50: the reset state is written out, and a load of no bytes installs nothing in it. -/
theorem resetHoldsTheSpecifiedValues : Obligations.ResetHoldsTheSpecifiedValues :=
  ⟨State.reg_reset, rfl, rfl, rfl, rfl, rfl, rfl, Display.pixel_clear, fun _ _ => Memory.unlisted_font,
    fun _ ha _ => Memory.unlisted_of_le ha, State.reset.loadRom_of_le (Nat.zero_le _)⟩

/-- Settles O51: the step leaves the reset machine with the image at `ENTRY`; what its memory reads is in the lemmas about
`Memory.read_image`. -/
theorem loadRomInstallsTheImageAndResets : Obligations.LoadRomInstallsTheImageAndResets := by
  intro s bytes hc hlen
  obtain ⟨t, ht, hreply, hmachine⟩ := step_of_loadRom_of_le hc hlen
  have hmem : t.mem = Memory.writeBytes [] entry bytes := congrArg State.mem hmachine
  have hreg : ∀ r, t.reg r = 0 := fun r => (congrArg (State.reg · r) hmachine).trans (State.reg_reset r)
  have hfits : entry + bytes.length ≤ memSize := by unfold entry memSize; omega
  have hdisp : t.disp = Display.clear := congrArg State.disp hmachine
  refine ⟨t, ht, hreply, hreg, congrArg State.i hmachine, congrArg State.pc hmachine, congrArg State.depth hmachine,
    congrArg State.dt hmachine, congrArg State.st hmachine, congrArg State.fault hmachine, ?_⟩
  rw [hmem, hdisp]
  refine ⟨Display.pixel_clear, fun k => read_writeBytes_add hfits, fun a => Memory.read_image_font hlen,
    fun a hfont _ ha => ?_⟩
  rw [Memory.read_image_outside hlen ha, Memory.unlisted_of_le hfont]

/-- Settles O52: the image lies above the font, so that the glyphs read as in the reset contents. -/
theorem loadRomInstallsTheFont : Obligations.LoadRomInstallsTheFont := by
  intro s bytes hlen d hd k hk
  have hbelow : ¬ (entry ≤ 5 * d + k ∧ 5 * d + k < entry + bytes.length) := by unfold entry; omega
  have hread : Memory.read (s.loadRom bytes).1.mem (5 * d + k) = Memory.unlisted (5 * d + k) := by
    rw [s.loadRom_of_le hlen]
    exact Memory.read_image_outside hlen hbelow
  rw [hread]
  exact Memory.unlisted_glyphs d hd k hk

/-- Settles O53: by the length of the image, above the limit, at it, and 0. -/
theorem oversizedRomIsRefusedWhole : Obligations.OversizedRomIsRefusedWhole := by
  refine fun s bytes hc => ⟨fun hlen => ?long, fun hlen => ?full, ?empty⟩
  case long =>
    rw [step_of_loadRom hc, State.loadRom_of_lt _ hlen]
    rfl
  case full =>
    obtain ⟨t, ht, hreply, hmachine⟩ := step_of_loadRom_of_le hc hlen.le
    have hmem : t.mem = Memory.writeBytes [] entry bytes := congrArg State.mem hmachine
    refine ⟨t, ht, hreply, fun a hlow hhigh => ?_⟩
    have hin : entry ≤ a ∧ a < entry + bytes.length := ⟨hlow, by unfold entry; omega⟩
    rw [hmem, Memory.read_image hlen.le, if_pos hin]
    rfl
  case empty =>
    rintro rfl
    obtain ⟨t, ht, hreply, hmachine⟩ := step_of_loadRom_of_le hc (Nat.zero_le _)
    exact ⟨t, ht, hreply, tick_of_machine_eq_reset hmachine⟩

/-- Settles O54: the check of an image is the conditions of R160 (`Image.valid_iff`). -/
theorem invalidImageIsRefusedWhole : Obligations.InvalidImageIsRefusedWhole := by
  intro s img hc hfits
  rw [step_of_stateWrite hc, State.stateWrite_of_not_fits hfits]
  rfl

/-- Settles O55: the outputs are functions of the machine (`State.outputs_congr`), which the reply is no part of, and the
image holds every element. -/
theorem stateReadReturnsTheWholeState : Obligations.StateReadReturnsTheWholeState := by
  refine ⟨fun s u => State.outputs_congr, fun s hc =>
    ⟨fun t ht => ?unchanged, fun hf => ?refused, fun hf => ?image⟩⟩
  case unchanged =>
    cases (step_of_stateRead hc).symm.trans ht
    exact ⟨rfl, State.outputs_congr rfl⟩
  case refused =>
    rw [step_of_stateRead hc, State.stateRead_of_ne_none (s := s.popCall) hf]
    rfl
  case image =>
    refine ⟨s.popCall.snapshot, ?_, s.popCall.length_snapshot_mem, fun a => s.popCall.getD_snapshot_mem,
      s.popCall.length_snapshot_v, s.popCall.getD_snapshot_v, s.popCall.snapshot_i, s.popCall.snapshot_pc,
      s.popCall.snapshot_depth, s.popCall.snapshot_stack, s.popCall.snapshot_dt, s.popCall.snapshot_st,
      s.popCall.length_snapshot_disp, s.popCall.getD_snapshot_disp⟩
    rw [step_of_stateRead hc, State.stateRead_of_none (s := s.popCall) hf]
    rfl

/-- Settles O56: each element of the image fits its width, so that its word has the same number. -/
theorem stateWriteInstallsAValidImage : Obligations.StateWriteInstallsAValidImage := by
  intro s img hc hfits
  have hstep : step s = .next (answer (s.popCall.restore img, .ok)) := by
    rw [step_of_stateWrite hc, State.stateWrite_of_fits hfits]
  refine ⟨_, hstep, rfl, rfl, fun a => State.toNat_read_restore hfits s.popCall,
    State.toNat_reg_restore hfits s.popCall, toNat_ofNat_of_lt hfits.indexFits, toNat_ofNat_of_lt hfits.pcFits,
    ?_, map_toNat_map_ofNat hfits.stackFits, toNat_ofNat_of_lt hfits.dtFits, toNat_ofNat_of_lt hfits.stFits,
    State.pixel_restore s.popCall img⟩
  rw [State.depth, stack_answer, State.stack_restore, List.length_map, hfits.stackComplete]

/-- Settles O57: the image of a state fits (`State.imageFits_snapshot`), and installed it gives the state again. -/
theorem snapshotRoundTrip : Obligations.SnapshotRoundTrip := by
  intro s m hinv hf
  rw [State.stateWrite_of_fits (s.imageFits_snapshot hinv.2.1), State.restore_snapshot hinv hf, State.withMachineOf]

/-- Settles O58: row and column of a pixel come back from its number (`State.getElem?_displayBuffer_pixel`). -/
theorem displayBufferIsRowMajor : Obligations.DisplayBufferIsRowMajor :=
  fun s => ⟨s.length_displayBuffer, s.getElem?_displayBuffer_pixel⟩

end Sys2Proof.Machine
end

section
/-! What two instructions do one after the other: RET after CALL (spec/44_jump.md), a fetch and FX65 after FX55
(spec/20_memory.md section 4), a draw repeated (spec/90_conflicts.md C5) and the countdown repeated (spec/47_timers.md
R126). Each follows from what the single instruction does. -/

namespace Sys2Proof.Machine

variable {s t : State} {x y : Reg} {n : Nat}

/-! ### A sprite drawn twice -/

/-- Where the sprite lies depends on memory, I and the two registers of the position alone. -/
theorem spriteCovers_congr (hm : ∀ a, Memory.read t.mem a = Memory.read s.mem a) (hi : t.i = s.i)
    (hx : t.reg x = s.reg x) (hy : t.reg y = s.reg y)
    (px : Fin 64) (py : Fin 32) : spriteCovers t x y n px py ↔ spriteCovers s x y n px py := by
  simp only [spriteCovers, hm, hi, hx, hy]

theorem byte_ne_zero_iff_bit (b : Byte) : b ≠ 0 ↔ ∃ c < 8, b.getLsbD (7 - c) = true := by
  refine ⟨fun hb => ?_, ?_⟩
  · by_contra hno
    refine hb (BitVec.eq_of_getLsbD_eq fun k hk => ?_)
    have hbit : ¬ b.getLsbD (7 - (7 - k)) = true := fun h => hno ⟨7 - k, by omega, h⟩
    rw [Nat.sub_sub_self (Nat.le_of_lt_succ hk)] at hbit
    simpa using hbit
  · rintro ⟨c, -, hbit⟩ rfl
    simp at hbit

/-- A sprite covers a pixel exactly when one of its bytes has a set bit, wherever it is drawn. -/
theorem exists_spriteCovers_iff (s : State) (x y : Reg) (n : Nat) :
    (∃ px py, spriteCovers s x y n px py) ↔ ∃ r < n, Memory.read s.mem (s.i.toNat + r) ≠ 0 := by
  simp only [byte_ne_zero_iff_bit]
  constructor
  · rintro ⟨px, py, r, c, hr, hc, -, -, hbit⟩
    exact ⟨r, hr, c, hc, hbit⟩
  · rintro ⟨r, hr, c, hc, hbit⟩
    exact ⟨Fin.ofNat 64 ((s.reg x).toNat + c), Fin.ofNat 32 ((s.reg y).toNat + r), r, c, hr, hc, rfl, rfl, hbit⟩

theorem flagByte_eq_one_iff (b : Bool) : flagByte b = 1 ↔ b = true := by cases b <;> decide

/-- On a clear display the sprite leaves exactly its covered pixels set, without a collision. -/
theorem State.drawn_on_clear (hn : n < 32) (hclear : ∀ px py, Display.pixel s.disp px py = false) :
    (∀ px py, Display.pixel (s.drawn x y n).1 px py = true ↔ spriteCovers s x y n px py) ∧
      (s.drawn x y n).2 = false := by
  obtain ⟨hpixel, hcollide⟩ := s.drawn_spec x y hn
  refine ⟨fun px py => ?_, Bool.eq_false_of_not_eq_true fun h => ?_⟩
  · simp [hpixel, hclear]
  · obtain ⟨px, py, -, hset⟩ := hcollide.mp h
    simp [hclear] at hset

/-- A sprite on a display that shows exactly its covered pixels clears it, and collides when it covers any. -/
theorem State.drawn_on_own_sprite (hn : n < 32)
    (hown : ∀ px py, Display.pixel s.disp px py = true ↔ spriteCovers s x y n px py) :
    (∀ px py, Display.pixel (s.drawn x y n).1 px py = false) ∧
      ((s.drawn x y n).2 = true ↔ ∃ px py, spriteCovers s x y n px py) := by
  obtain ⟨hpixel, hcollide⟩ := s.drawn_spec x y hn
  refine ⟨fun px py => ?_, hcollide.trans ?_⟩
  · simp [hpixel, ← hown]
  · simp only [hown, and_self]

/-! ### The countdown repeated -/

/-- After n calls each timer is n lower, down to 0 (R123, R126). -/
theorem toNat_iterate_updateTimers (n : Nat) (s : State) :
    (State.updateTimers^[n] s).dt.toNat = s.dt.toNat - n ∧ (State.updateTimers^[n] s).st.toNat = s.st.toNat - n := by
  induction n with
  | zero => exact ⟨rfl, rfl⟩
  | succ n ih =>
    obtain ⟨hdt, hst⟩ := ih
    rw [Function.iterate_succ_apply', State.dt_updateTimers, State.st_updateTimers, countDown_toNat, countDown_toNat,
      hdt, hst]
    exact ⟨Nat.sub_sub _ n 1, Nat.sub_sub _ n 1⟩

/-! ### The obligations -/

/-- Settles O31: the entry that CALL pushes is the one RET pops, so that only the pc differs. -/
theorem returnUndoesCall : Obligations.ReturnUndoesCall := by
  intro nnn s hd
  refine ⟨_, s.setPc (s.pc + 2), exec_call_of_lt hd nnn, exec_ret_of_concat rfl, pcAdvanced_of_pc_eq rfl,
    regsKept_setPc [] s _, partsKept_setPc [] s _⟩

/-- Settles O38: the two bytes at the next pc are V0 and V1 (`read_writeBytes_regsUpTo`). -/
theorem storedWordIsFetchedNext : Obligations.StoredWordIsFetchedNext := by
  intro x s hx hi hin
  have hrange : s.i.toNat + regCount x ≤ memSize := hin
  obtain ⟨t, ht, hmem, -, hpc, -⟩ := exec_of_setMem_setI (exec_ldMemVx_of_le hrange)
  have hi' : s.i.toNat < 4096 := by omega
  have hpc' : t.pc.toNat = s.i.toNat := by
    rw [pcAdvanced] at hpc
    omega
  have hstored : ∀ r : Reg, r.toNat ≤ x.toNat → Memory.read t.mem (s.i.toNat + r.toNat) = s.reg r := fun r hr => by
    rw [hmem, read_writeBytes_regsUpTo hrange hr]
  refine ⟨t, ht, ?_⟩
  rw [fetch_of_le t (by unfold memSize; omega), hpc']
  exact congrArg Except.ok (congrArg₂ wordOfBytes (hstored 0 (Nat.zero_le _)) (hstored 1 hx))

/-- Settles O39: FX65 reads the range that FX55 wrote, and the registers above Vx are not loaded (`reg_regsLoaded`). -/
theorem storedRegistersLoadBack : Obligations.StoredRegistersLoadBack := by
  intro x s u hin
  have hrange : s.i.toNat + regCount x ≤ memSize := hin
  obtain ⟨t, ht, hmem, -⟩ := exec_of_setMem_setI (exec_ldMemVx_of_le hrange)
  obtain ⟨w, hw, hreg, -⟩ := exec_of_setRegs_setI (exec_ldVxMem_of_le (s := (t.setI s.i).setRegs u.v) hrange)
  refine ⟨t, w, ht, hw, fun r => ?_⟩
  rw [hreg, reg_regsLoaded]
  split_ifs with hr
  · simp only [State.mem_setRegs, State.mem_setI, State.i_setRegs, State.i_setI, hmem, read_writeBytes_regsUpTo hrange hr]
  · rfl

/-- Settles O42: the first draw shows the sprite (`State.drawn_on_clear`) and moves neither it nor its position, so that the
second clears it (`State.drawn_on_own_sprite`). -/
theorem drawingTwiceErasesAndCollides : Obligations.DrawingTwiceErasesAndCollides := by
  intro x y n s hx hy hin hclear
  have hn : n.toNat < 32 := Nat.lt_trans n.isLt (by decide)
  obtain ⟨t, ht, htdisp, htvf, -, htregs, htparts⟩ := exec_of_drawSprite (exec_drw_of_le (.inr hin))
  have hmem : ∀ a, Memory.read t.mem a = Memory.read s.mem a := htparts .memory (by decide)
  have hi : t.i = s.i := htparts .index (by decide)
  have htin : t.i.toNat + n.toNat ≤ memSize := by rw [hi]; exact hin
  obtain ⟨u, hu, hudisp, huvf, -⟩ := exec_of_drawSprite (exec_drw_of_le (.inr htin))
  obtain ⟨hshown, hfree⟩ := State.drawn_on_clear (x := x) (y := y) hn hclear
  have hcovers := spriteCovers_congr (n := n.toNat) hmem hi
    (htregs x (by simpa using hx)) (htregs y (by simpa using hy))
  obtain ⟨herased, hcollides⟩ := State.drawn_on_own_sprite (s := t) (x := x) (y := y) hn
    fun px py => by rw [htdisp, hshown, hcovers]
  refine ⟨t, u, ht, hu, by rw [htvf, hfree]; rfl, by rw [hudisp]; exact herased, ?_⟩
  rw [huvf, flagByte_eq_one_iff, hcollides, exists_spriteCovers_iff, hi]
  simp only [hmem]

/-- Settles O45, by induction on the calls (`toNat_iterate_updateTimers`). -/
theorem timersDecayToZero : Obligations.TimersDecayToZero := by
  intro n s
  obtain ⟨hdt, hst⟩ := toNat_iterate_updateTimers n s
  have hzero : (State.updateTimers^[n] s).st ≠ 0 ↔ (State.updateTimers^[n] s).st.toNat ≠ 0 :=
    BitVec.toNat_inj.symm.not
  exact ⟨hdt, hst, by rw [State.soundActive_iff, hzero, hst, Nat.sub_ne_zero_iff_lt]⟩

end Sys2Proof.Machine
end
